-- ==== Sys2Proof/Word.lean ====
section
/-! DEFINITION. The two data widths of the engine (spec/00_scope.md R7): a byte is 8 bits, a word is 32 bits,
and every value is unsigned. All arithmetic on them is in Machine/Arith.lean. -/

namespace Sys2Proof

/-- A byte (R7): a message byte, a buffer byte, a response byte. -/
abbrev Byte := BitVec 8

/-- A word (R7): an accumulator, a working register, a message word, an additive constant. -/
abbrev Word := BitVec 32

end Sys2Proof
end

