-- ==== Sys2Proof/Machine/Arith.lean ====
section
/-! DEFINITION. The arithmetic primitives (spec/00_scope.md R9, R10): total, unsigned, "All arithmetic is modulo 2^32". -/

namespace Sys2Proof.Machine

/-- `add32(x, y) = (x + y) mod 2^32` (R9); the carry is discarded (R184). -/
def add32 (x y : Word) : Word := x + y

/-- `and32`, bitwise on all 32 bits (R9). -/
def and32 (x y : Word) : Word := x &&& y

/-- `or32`, bitwise on all 32 bits (R9). -/
def or32 (x y : Word) : Word := x ||| y

/-- `xor32`, bitwise on all 32 bits (R9). -/
def xor32 (x y : Word) : Word := x ^^^ y

/-- `not32(x) = xor32(x, 0xFFFFFFFF)` (R9): within 32 bits. -/
def not32 (x : Word) : Word := x ^^^ 0xFFFFFFFF

/-- `shl32(x, n) = (x * 2^n) mod 2^32` (R9). -/
def shl32 (x : Word) (n : Nat) : Word := x <<< n

/-- `shr32(x, n) = floor(x / 2^n)` (R9). -/
def shr32 (x : Word) (n : Nat) : Word := x >>> n

/-- `rotl32(x, n) = ((x * 2^n) mod 2^32) + floor(x / 2^(32-n))` (R9), for `1 <= n <= 31` (R194). -/
def rotl32 (x : Word) (n : Nat) : Word := shl32 x n + shr32 x (32 - n)

/-- `zext_32` of the 7-bit count (R10). -/
def zext32 (v : BitVec 7) : Word := v.setWidth 32

end Sys2Proof.Machine
end

