-- ==== Sys2Proof/Config.lean ====
section
/-! DEFINITION. What is fixed at manufacture (spec/00_scope.md R6, spec/10_state.md R32), and the free values: the
working registers and STEP outside a fold, which the spec calls unspecified (spec/10_state.md R23, R24). -/

namespace Sys2Proof.Config

/-- The first of "the four standard 32-bit initialization constants" (R22), loaded into W0. -/
def initW0 : Word := 0x67452301

/-- The second initialization constant (R22), loaded into W1. -/
def initW1 : Word := 0xefcdab89

/-- The third initialization constant (R22), loaded into W2. -/
def initW2 : Word := 0x98badcfe

/-- The fourth initialization constant (R22), loaded into W3. -/
def initW3 : Word := 0x10325476

/-- The pad marker byte (R6, R155). -/
def padMarker : Byte := 0x80

/-- The block size in bytes, which is the size of the buffer BUF (R6, R60). -/
def blockBytes : Nat := 64

/-- The pad target: the buffered length before the length field, and the address of that field (R6, R78). -/
def padTarget : Nat := 56

/-- FREE VALUE (log entry 2). The content of a working register after fold number `n` has ended: `role` is 0, 1, 2, 3
for a, b, c, d. Nothing constrains it: "Their value outside a fold ... is unspecified" (R23). -/
opaque freeWord : (n : Nat) → (role : Nat) → Word

/-- FREE VALUE (log entry 2). The content of STEP after fold number `n` has ended: STEP is "unspecified at reset, after
`INIT` and outside a fold" (R24). -/
opaque freeStep : (n : Nat) → BitVec 6

end Sys2Proof.Config
end

