-- ==== Sys2Proof/Syntax.lean ====
section
/-! DEFINITION. The instruction set: the four host commands (spec/30_encoding.md R92) and the 64 steps of the step
schedule (R97), one constructor per row of spec/opcode_table.json; and the assembler lines of R100 to R104, which expand
to command words. Operand types carry the operand ranges of R93. -/

namespace Sys2Proof

/-- One row of spec/opcode_table.json each. The host issues the first four; `sNN` is selected by the STEP register. -/
inductive Instr where
  /-- R122: create a fresh HashState. -/
  | init
  /-- R123: append one message byte; the operand is CMD[7:0]. -/
  | write (data : Byte)
  /-- R124: pad, append the length, fold, lay out the digest. -/
  | final
  /-- R126: respond digest byte `idx`; the operand is CMD[3:0]. -/
  | read (idx : BitVec 4)
  /-- R200: step 0 of a fold, selected by STEP = 0. -/
  | s00
  /-- R201: step 1 of a fold, selected by STEP = 1. -/
  | s01
  /-- R202: step 2 of a fold, selected by STEP = 2. -/
  | s02
  /-- R203: step 3 of a fold, selected by STEP = 3. -/
  | s03
  /-- R204: step 4 of a fold, selected by STEP = 4. -/
  | s04
  /-- R205: step 5 of a fold, selected by STEP = 5. -/
  | s05
  /-- R206: step 6 of a fold, selected by STEP = 6. -/
  | s06
  /-- R207: step 7 of a fold, selected by STEP = 7. -/
  | s07
  /-- R208: step 8 of a fold, selected by STEP = 8. -/
  | s08
  /-- R209: step 9 of a fold, selected by STEP = 9. -/
  | s09
  /-- R210: step 10 of a fold, selected by STEP = 10. -/
  | s10
  /-- R211: step 11 of a fold, selected by STEP = 11. -/
  | s11
  /-- R212: step 12 of a fold, selected by STEP = 12. -/
  | s12
  /-- R213: step 13 of a fold, selected by STEP = 13. -/
  | s13
  /-- R214: step 14 of a fold, selected by STEP = 14. -/
  | s14
  /-- R215: step 15 of a fold, selected by STEP = 15. -/
  | s15
  /-- R216: step 16 of a fold, selected by STEP = 16. -/
  | s16
  /-- R217: step 17 of a fold, selected by STEP = 17. -/
  | s17
  /-- R218: step 18 of a fold, selected by STEP = 18. -/
  | s18
  /-- R219: step 19 of a fold, selected by STEP = 19. -/
  | s19
  /-- R220: step 20 of a fold, selected by STEP = 20. -/
  | s20
  /-- R221: step 21 of a fold, selected by STEP = 21. -/
  | s21
  /-- R222: step 22 of a fold, selected by STEP = 22. -/
  | s22
  /-- R223: step 23 of a fold, selected by STEP = 23. -/
  | s23
  /-- R224: step 24 of a fold, selected by STEP = 24. -/
  | s24
  /-- R225: step 25 of a fold, selected by STEP = 25. -/
  | s25
  /-- R226: step 26 of a fold, selected by STEP = 26. -/
  | s26
  /-- R227: step 27 of a fold, selected by STEP = 27. -/
  | s27
  /-- R228: step 28 of a fold, selected by STEP = 28. -/
  | s28
  /-- R229: step 29 of a fold, selected by STEP = 29. -/
  | s29
  /-- R230: step 30 of a fold, selected by STEP = 30. -/
  | s30
  /-- R231: step 31 of a fold, selected by STEP = 31. -/
  | s31
  /-- R232: step 32 of a fold, selected by STEP = 32. -/
  | s32
  /-- R233: step 33 of a fold, selected by STEP = 33. -/
  | s33
  /-- R234: step 34 of a fold, selected by STEP = 34. -/
  | s34
  /-- R235: step 35 of a fold, selected by STEP = 35. -/
  | s35
  /-- R236: step 36 of a fold, selected by STEP = 36. -/
  | s36
  /-- R237: step 37 of a fold, selected by STEP = 37. -/
  | s37
  /-- R238: step 38 of a fold, selected by STEP = 38. -/
  | s38
  /-- R239: step 39 of a fold, selected by STEP = 39. -/
  | s39
  /-- R240: step 40 of a fold, selected by STEP = 40. -/
  | s40
  /-- R241: step 41 of a fold, selected by STEP = 41. -/
  | s41
  /-- R242: step 42 of a fold, selected by STEP = 42. -/
  | s42
  /-- R243: step 43 of a fold, selected by STEP = 43. -/
  | s43
  /-- R244: step 44 of a fold, selected by STEP = 44. -/
  | s44
  /-- R245: step 45 of a fold, selected by STEP = 45. -/
  | s45
  /-- R246: step 46 of a fold, selected by STEP = 46. -/
  | s46
  /-- R247: step 47 of a fold, selected by STEP = 47. -/
  | s47
  /-- R248: step 48 of a fold, selected by STEP = 48. -/
  | s48
  /-- R249: step 49 of a fold, selected by STEP = 49. -/
  | s49
  /-- R250: step 50 of a fold, selected by STEP = 50. -/
  | s50
  /-- R251: step 51 of a fold, selected by STEP = 51. -/
  | s51
  /-- R252: step 52 of a fold, selected by STEP = 52. -/
  | s52
  /-- R253: step 53 of a fold, selected by STEP = 53. -/
  | s53
  /-- R254: step 54 of a fold, selected by STEP = 54. -/
  | s54
  /-- R255: step 55 of a fold, selected by STEP = 55. -/
  | s55
  /-- R256: step 56 of a fold, selected by STEP = 56. -/
  | s56
  /-- R257: step 57 of a fold, selected by STEP = 57. -/
  | s57
  /-- R258: step 58 of a fold, selected by STEP = 58. -/
  | s58
  /-- R259: step 59 of a fold, selected by STEP = 59. -/
  | s59
  /-- R260: step 60 of a fold, selected by STEP = 60. -/
  | s60
  /-- R261: step 61 of a fold, selected by STEP = 61. -/
  | s61
  /-- R262: step 62 of a fold, selected by STEP = 62. -/
  | s62
  /-- R263: step 63 of a fold, selected by STEP = 63. -/
  | s63
  deriving DecidableEq, Repr

/-- A line of a command sequence as R100 writes it: numbers as typed, before their range is checked. The last three are
the pseudo-instructions of R101, R102 and R104. -/
inductive Line where
  | init
  | write (byte : Nat)
  | final
  | read (idx : Nat)
  /-- `RSVD 0xNNN`: a reserved word written as it stands (R100). -/
  | rsvd (word : Nat)
  | writes (bytes : List Nat)
  | digest
  | hash (bytes : List Nat)
  deriving DecidableEq, Repr

end Sys2Proof
end

