-- ==== Sys2Proof/WellFormed.lean ====
section
/-! DEFINITION. Which syntax is admitted. The operand types of `Instr` hold exactly the values of R93, so every `Instr` is
well formed; a `Line` holds numbers as typed, and its ranges are checked here (spec/30_encoding.md R100, R94). -/

namespace Sys2Proof

/-- R93: `data` is 0..255 and `idx` is 0..15, which their types say; no other instruction has an operand. -/
def Instr.wellFormed : Instr → Bool
  | .init => true
  | .write _ => true
  | .final => true
  | .read _ => true
  | .s00 => true
  | .s01 => true
  | .s02 => true
  | .s03 => true
  | .s04 => true
  | .s05 => true
  | .s06 => true
  | .s07 => true
  | .s08 => true
  | .s09 => true
  | .s10 => true
  | .s11 => true
  | .s12 => true
  | .s13 => true
  | .s14 => true
  | .s15 => true
  | .s16 => true
  | .s17 => true
  | .s18 => true
  | .s19 => true
  | .s20 => true
  | .s21 => true
  | .s22 => true
  | .s23 => true
  | .s24 => true
  | .s25 => true
  | .s26 => true
  | .s27 => true
  | .s28 => true
  | .s29 => true
  | .s30 => true
  | .s31 => true
  | .s32 => true
  | .s33 => true
  | .s34 => true
  | .s35 => true
  | .s36 => true
  | .s37 => true
  | .s38 => true
  | .s39 => true
  | .s40 => true
  | .s41 => true
  | .s42 => true
  | .s43 => true
  | .s44 => true
  | .s45 => true
  | .s46 => true
  | .s47 => true
  | .s48 => true
  | .s49 => true
  | .s50 => true
  | .s51 => true
  | .s52 => true
  | .s53 => true
  | .s54 => true
  | .s55 => true
  | .s56 => true
  | .s57 => true
  | .s58 => true
  | .s59 => true
  | .s60 => true
  | .s61 => true
  | .s62 => true
  | .s63 => true

/-- R94: the reserved words are exactly 0x001..0x0FF, 0x201..0x2FF and 0x310..0x3FF. -/
def reservedNumber (w : Nat) : Bool :=
  (0x001 ≤ w && w ≤ 0x0FF) || (0x201 ≤ w && w ≤ 0x2FF) || (0x310 ≤ w && w ≤ 0x3FF)

/-- R100: `<byte>` is 0..255, `<idx>` is 0..15, and `RSVD` is for a reserved word only. -/
def Line.wellFormed : Line → Bool
  | .init => true
  | .write byte => byte ≤ 255
  | .final => true
  | .read idx => idx ≤ 15
  | .rsvd word => reservedNumber word
  | .writes bytes => bytes.all (· ≤ 255)
  | .digest => true
  | .hash bytes => bytes.all (· ≤ 255)

end Sys2Proof
end

