-- ==== Sys2Proof/Decode.lean ====
section
/-! DEFINITION. Decoding and encoding (spec/30_encoding.md R90 to R98). There are two selectors: the 10-bit command word
CMD[9:0] that the host presents, and the 6-bit STEP register that selects a row of the step schedule. Decoding does not
depend on the state (R95). -/

namespace Sys2Proof

/-- What selects an instruction: a command word at the command port (R90), or the STEP register during a fold (R97). -/
inductive Selector where
  | command (w : BitVec 10)
  | row (i : BitVec 6)
  deriving DecidableEq, Repr

/-- The three ranges of reserved words (R94). -/
inductive ReservedWord where
  /-- 0x001 .. 0x0FF: `op` = 00 with `imm` not 0. -/
  | initOperand
  /-- 0x201 .. 0x2FF: `op` = 10 with `imm` not 0. -/
  | finalOperand
  /-- 0x310 .. 0x3FF: `op` = 11 with CMD[7:4] not 0. -/
  | readIndex
  deriving DecidableEq, Repr

/-- `op`, CMD[9:8] (R90). -/
def opField (w : BitVec 10) : BitVec 2 := w.extractLsb' 8 2

/-- `imm`, CMD[7:0], the operand of `WRITE` used as is (R90, R93). -/
def immField (w : BitVec 10) : Byte := w.extractLsb' 0 8

/-- `idx`, CMD[3:0], the operand of `READ` used as is (R91, R93). -/
def idxField (w : BitVec 10) : BitVec 4 := w.extractLsb' 0 4

/-- `Decode(w)` (R95): the row of the opcode map with `(w AND mask) = match` (R92), else reserved, by name (R94). -/
def decodeCommand (w : BitVec 10) : Except ReservedWord Instr :=
  if w &&& 0x3FF = 0x000 then .ok .init
  else if w &&& 0x300 = 0x100 then .ok (.write (immField w))
  else if w &&& 0x3FF = 0x200 then .ok .final
  else if w &&& 0x3F0 = 0x300 then .ok (.read (idxField w))
  else if opField w = 0 then .error .initOperand
  else if opField w = 2 then .error .finalOperand
  else .error .readIndex

/-- The 64 rows of the step schedule in the order of STEP (R97, R200 to R263). -/
def stepInstrs : List Instr :=
  [.s00, .s01, .s02, .s03, .s04, .s05, .s06, .s07, .s08, .s09, .s10, .s11, .s12, .s13, .s14, .s15] ++
  [.s16, .s17, .s18, .s19, .s20, .s21, .s22, .s23, .s24, .s25, .s26, .s27, .s28, .s29, .s30, .s31] ++
  [.s32, .s33, .s34, .s35, .s36, .s37, .s38, .s39, .s40, .s41, .s42, .s43, .s44, .s45, .s46, .s47] ++
  [.s48, .s49, .s50, .s51, .s52, .s53, .s54, .s55, .s56, .s57, .s58, .s59, .s60, .s61, .s62, .s63]

/-- The step that STEP selects (R97): row `i` is selected when STEP = `i`. -/
def stepInstr (i : BitVec 6) : Instr := stepInstrs.getD i.toNat .s00

/-- Decoding of either selector. Every value of STEP selects a row; a command word may be reserved. -/
def decode : Selector → Except ReservedWord Instr
  | .command w => decodeCommand w
  | .row i => .ok (stepInstr i)

/-- The selector of an instruction: the words of R92 (`INIT` 0x000, `WRITE` 0x100 + data, `FINAL` 0x200,
`READ` 0x300 + idx) and the STEP values of R200 to R263. -/
def encode : Instr → Selector
  | .init => .command 0x000
  | .write data => .command (0x100 + data.setWidth 10)
  | .final => .command 0x200
  | .read idx => .command (0x300 + idx.setWidth 10)
  | .s00 => .row 0
  | .s01 => .row 1
  | .s02 => .row 2
  | .s03 => .row 3
  | .s04 => .row 4
  | .s05 => .row 5
  | .s06 => .row 6
  | .s07 => .row 7
  | .s08 => .row 8
  | .s09 => .row 9
  | .s10 => .row 10
  | .s11 => .row 11
  | .s12 => .row 12
  | .s13 => .row 13
  | .s14 => .row 14
  | .s15 => .row 15
  | .s16 => .row 16
  | .s17 => .row 17
  | .s18 => .row 18
  | .s19 => .row 19
  | .s20 => .row 20
  | .s21 => .row 21
  | .s22 => .row 22
  | .s23 => .row 23
  | .s24 => .row 24
  | .s25 => .row 25
  | .s26 => .row 26
  | .s27 => .row 27
  | .s28 => .row 28
  | .s29 => .row 29
  | .s30 => .row 30
  | .s31 => .row 31
  | .s32 => .row 32
  | .s33 => .row 33
  | .s34 => .row 34
  | .s35 => .row 35
  | .s36 => .row 36
  | .s37 => .row 37
  | .s38 => .row 38
  | .s39 => .row 39
  | .s40 => .row 40
  | .s41 => .row 41
  | .s42 => .row 42
  | .s43 => .row 43
  | .s44 => .row 44
  | .s45 => .row 45
  | .s46 => .row 46
  | .s47 => .row 47
  | .s48 => .row 48
  | .s49 => .row 49
  | .s50 => .row 50
  | .s51 => .row 51
  | .s52 => .row 52
  | .s53 => .row 53
  | .s54 => .row 54
  | .s55 => .row 55
  | .s56 => .row 56
  | .s57 => .row 57
  | .s58 => .row 58
  | .s59 => .row 59
  | .s60 => .row 60
  | .s61 => .row 61
  | .s62 => .row 62
  | .s63 => .row 63

/-- A row of the opcode table as the table prints it: its selector's match and mask. -/
inductive TableRow where
  /-- Against CMD[9:0] (R92). -/
  | cmd (pattern mask : BitVec 10)
  /-- Against STEP[5:0] with mask 0x3F (R97). -/
  | step (pattern : BitVec 6)
  deriving DecidableEq, Repr

/-- The opcode table's row of an instruction: match and mask columns of R92, and the 64 step rows of R97. -/
def tableRow : Instr → TableRow
  | .init => .cmd 0x000 0x3FF
  | .write _ => .cmd 0x100 0x300
  | .final => .cmd 0x200 0x3FF
  | .read _ => .cmd 0x300 0x3F0
  | .s00 => .step 0
  | .s01 => .step 1
  | .s02 => .step 2
  | .s03 => .step 3
  | .s04 => .step 4
  | .s05 => .step 5
  | .s06 => .step 6
  | .s07 => .step 7
  | .s08 => .step 8
  | .s09 => .step 9
  | .s10 => .step 10
  | .s11 => .step 11
  | .s12 => .step 12
  | .s13 => .step 13
  | .s14 => .step 14
  | .s15 => .step 15
  | .s16 => .step 16
  | .s17 => .step 17
  | .s18 => .step 18
  | .s19 => .step 19
  | .s20 => .step 20
  | .s21 => .step 21
  | .s22 => .step 22
  | .s23 => .step 23
  | .s24 => .step 24
  | .s25 => .step 25
  | .s26 => .step 26
  | .s27 => .step 27
  | .s28 => .step 28
  | .s29 => .step 29
  | .s30 => .step 30
  | .s31 => .step 31
  | .s32 => .step 32
  | .s33 => .step 33
  | .s34 => .step 34
  | .s35 => .step 35
  | .s36 => .step 36
  | .s37 => .step 37
  | .s38 => .step 38
  | .s39 => .step 39
  | .s40 => .step 40
  | .s41 => .step 41
  | .s42 => .step 42
  | .s43 => .step 43
  | .s44 => .step 44
  | .s45 => .step 45
  | .s46 => .step 46
  | .s47 => .step 47
  | .s48 => .step 48
  | .s49 => .step 49
  | .s50 => .step 50
  | .s51 => .step 51
  | .s52 => .step 52
  | .s53 => .step 53
  | .s54 => .step 54
  | .s55 => .step 55
  | .s56 => .step 56
  | .s57 => .step 57
  | .s58 => .step 58
  | .s59 => .step 59
  | .s60 => .step 60
  | .s61 => .step 61
  | .s62 => .step 62
  | .s63 => .step 63

/-- A row selects a selector: `(w AND mask) = match` (R92, R97). -/
def TableRow.selects : TableRow → Selector → Bool
  | .cmd pattern mask, .command w => w &&& mask == pattern
  | .step pattern, .row i => i &&& 0x3F == pattern
  | .cmd _ _, .row _ => false
  | .step _, .command _ => false

/-- A selector from the opcode table's numbering (log entry 6): the table gives a step row 6 bits (one byte) and a
command row 10 bits (two bytes), so `nbits` of 8 or fewer is a STEP value and more is a command word. Bits that the
selector does not have must be 0. -/
def tableSelector (nbits w : Nat) : Option Selector :=
  if nbits ≤ 8 then
    if w < 64 then some (.row (BitVec.ofNat 6 w)) else none
  else if w < 1024 then some (.command (BitVec.ofNat 10 w))
  else none

/-- The instruction the decoder reads from the opcode table's word; none where it refuses. -/
def decodeTableWord (nbits w : Nat) : Option Instr :=
  match tableSelector nbits w with
  | none => none
  | some sel =>
    match decode sel with
    | .ok i => some i
    | .error _ => none

/-- R101: `WRITES` is one `WRITE` per byte, in order; no byte, no command. -/
def writesWords (bytes : List Byte) : List (BitVec 10) := bytes.map fun v => 0x100 + v.setWidth 10

/-- R102: `DIGEST` is `READ 0` to `READ 15`, in order. -/
def digestWords : List (BitVec 10) := (List.range 16).map fun i => 0x300 + BitVec.ofNat 10 i

/-- R104: `HASH` is `INIT`, `WRITES`, `FINAL`, `DIGEST`. -/
def hashWords (bytes : List Byte) : List (BitVec 10) := 0x000 :: (writesWords bytes ++ 0x200 :: digestWords)

/-- The assembled form of a line (R100 to R104): its list of 10-bit words. -/
def assemble : Line → List (BitVec 10)
  | .init => [0x000]
  | .write byte => writesWords [BitVec.ofNat 8 byte]
  | .final => [0x200]
  | .read idx => [0x300 + BitVec.ofNat 10 idx]
  | .rsvd word => [BitVec.ofNat 10 word]
  | .writes bytes => writesWords (bytes.map (BitVec.ofNat 8))
  | .digest => digestWords
  | .hash bytes => hashWords (bytes.map (BitVec.ofNat 8))

end Sys2Proof
end

