-- ==== Sys2Proof/Machine/State.lean ====
section
/-! DEFINITION. The state of the engine as plain data (spec/10_state.md R20), its faults and refusals, and the state right
after reset. -/

namespace Sys2Proof.Machine

/-- PHASE (R25), the life-cycle register. Its 2-bit code is `Phase.code` in Flags.lean. -/
inductive Phase where
  /-- 0: "no HashState exists: nothing has been initialised since reset". -/
  | uninit
  /-- 1: "a HashState exists and accepts `WRITE` and `FINAL`". -/
  | absorb
  /-- 2: "`FINAL` has executed; the digest is in `BUF[0..15]`". -/
  | done
  /-- 3: "a contract violation occurred; absorbing until reset". -/
  | fault
  deriving DecidableEq, Repr

/-- The accumulator file W0..W3 (R21), the running digest. -/
structure Accumulators where
  w0 : Word
  w1 : Word
  w2 : Word
  w3 : Word
  deriving DecidableEq, Repr

/-- The four working registers by role (R23): `a` is the source's "current". -/
structure Working where
  a : Word
  b : Word
  c : Word
  d : Word
  deriving DecidableEq, Repr

/-- Where the sequencer stands (R161): at a command boundary, or inside a fold, with the place it returns to recorded. -/
inductive Seq where
  /-- IDLE: a command boundary; CMD_READY is asserted (R107). -/
  | idle
  /-- FOLD_0..FOLD_63 "with return to IDLE": the fold that `WRITE` of the 64th byte runs. -/
  | foldToIdle
  /-- FOLD_0..FOLD_63 "with return to F_ZERO_B": the first of the two folds of `FINAL` (R157). -/
  | foldToSecondBlock
  /-- FOLD_0..FOLD_63 "with return to F_SER": the last fold of `FINAL`. -/
  | foldToSerialize
  deriving DecidableEq, Repr

/-- What the outside does to the engine: it presents a command word (R107) or asserts RST (R300). -/
inductive PortEvent where
  | command (w : BitVec 10)
  | reset
  deriving DecidableEq, Repr

/-- The block buffer's contents: (address, byte) pairs, canonical when the addresses rise strictly, lie below 64, and no
byte is 0x00, which is what an unlisted address reads as (log entry 4). -/
abbrev Buffer := List Host.Cell

/-- The complete state of the engine (R20: "There is no other state"), with the ports of R106 (`seq`, `input`, `rsp`) and
the model's own counter of ended folds (`folds`, log entry 2). -/
structure State where
  /-- The model's own counter of ended folds, the argument of the free values of Config (log entry 2). It stands first because
  a fold always changes it, so that comparing a folded state with another fails at once. -/
  folds : Nat
  /-- W0..W3, 32 bits each (R21). -/
  acc : Accumulators
  /-- a, b, c, d, 32 bits each (R23). -/
  work : Working
  /-- STEP, 6 bits (R24). -/
  stepReg : BitVec 6
  /-- PHASE, 2 bits (R25). -/
  phase : Phase
  /-- CAUSE, 3 bits (R26). -/
  cause : BitVec 3
  /-- NBLK, 32 bits (R27). -/
  nblk : Word
  /-- CNT, 7 bits (R28). -/
  cnt : BitVec 7
  /-- LENLO, 32 bits (R29). -/
  lenlo : Word
  /-- LENHI, 32 bits (R29). -/
  lenhi : Word
  /-- BUF[0..63], 8 bits each (R30). -/
  buf : Buffer
  /-- The sequencer's place (R161); CMD_READY is asserted exactly when it is `idle` (R107). -/
  seq : Seq
  /-- The events the outside presents, in order (R107: "The model's input is the sequence of accepted command words"). -/
  input : List PortEvent
  /-- The response of the last command: RSP_VALID and RSP_DATA as one option, "never a byte" when there is none (R96). -/
  rsp : Option Byte
  deriving DecidableEq, Repr

/-- Why a step stops without a next state. No state that a command boundary can show raises one (spec/10_state.md R35
INV2); a contract violation is no stop but a next state (spec/60_exceptions.md R274). -/
inductive Fault where
  /-- Raised by `WRITE` and `FINAL` in phase ABSORB when CNT is not an address of the buffer: CNT above 63 for `WRITE`,
  above 64 for `FINAL`. R12: MemWrite requires `addr + n <= 64`; R63: "no access can fall outside 0..63". Such a CNT is
  never produced (R28, R35 INV2). SAFE: the model stops where the spec defines nothing. -/
  | bufferAddress (addr : Nat)
  deriving DecidableEq, Repr

/-- Why an instruction has no meaning. -/
inductive Refusal where
  /-- Raised by exec's arm of an instruction that is not modelled, and by nothing else; no arm raises it. SAFE. -/
  | notModelled (mnemonic : String)
  deriving DecidableEq, Repr

/-- The outcome of a meaning. -/
abbrev Result := Host.Outcome State Fault Refusal

/-- The machine right after reset: PHASE = 0 and CAUSE = 0 (R300, R301), no response, nothing presented. The spec leaves
every other element unspecified; the model's named value for each is zero (DESIGN CHOICE, log entry 1). -/
def State.reset : State where
  folds := 0
  acc := ⟨0, 0, 0, 0⟩
  work := ⟨0, 0, 0, 0⟩
  stepReg := 0
  phase := .uninit
  cause := 0
  nblk := 0
  cnt := 0
  lenlo := 0
  lenhi := 0
  buf := []
  seq := .idle
  input := []
  rsp := none

end Sys2Proof.Machine
end

