-- ==== Sys2Proof/Machine/Flags.lean ====
section
/-! DEFINITION. PHASE, the engine's only flag register (spec/10_state.md R25), the cause codes (spec/60_exceptions.md
R271), and which command the life cycle allows in which phase (spec/40_host_commands.md R120). There are no condition
codes: "no arithmetic instruction sets a flag" (R25). -/

namespace Sys2Proof.Machine

/-- The value of PHASE[1:0] (R25). -/
def Phase.code : Phase → BitVec 2
  | .uninit => 0
  | .absorb => 1
  | .done => 2
  | .fault => 3

/-- The five contract violations (R271). -/
inductive Violation where
  /-- `WRITE`, `FINAL` or `READ` accepted in phase UNINIT. -/
  | uninit
  /-- `WRITE` accepted in phase DONE. -/
  | writeAfterFinal
  /-- `FINAL` accepted in phase DONE. -/
  | finalTwice
  /-- `READ` accepted in phase ABSORB. -/
  | readBeforeFinal
  /-- A reserved command word accepted in phase UNINIT, ABSORB or DONE. -/
  | reserved
  deriving DecidableEq, Repr

/-- The code that the violation entry records in CAUSE (R271). -/
def Violation.code : Violation → BitVec 3
  | .uninit => 1
  | .writeAfterFinal => 2
  | .finalTwice => 3
  | .readBeforeFinal => 4
  | .reserved => 5

/-- What dispatch distinguishes (R120, R121). -/
inductive CommandClass where
  | init
  | write
  | final
  | read
  | reserved
  deriving DecidableEq, Repr

/-- A cell of the table of R121. -/
inductive Legality where
  /-- "the command's own rule runs" -/
  | runs
  /-- `raise Violation(k)` -/
  | violates (k : Violation)
  /-- "no state change and no response" -/
  | ignored
  deriving DecidableEq, Repr

/-- The checks of `Exec` in their order (R120 E1 to E8; R273). -/
def legality (c : CommandClass) (p : Phase) : Legality :=
  if p = .fault then .ignored
  else if c = .reserved then .violates .reserved
  else if c = .init then .runs
  else if p = .uninit then .violates .uninit
  else if c = .write then (if p = .done then .violates .writeAfterFinal else .runs)
  else if c = .final then (if p = .done then .violates .finalTwice else .runs)
  else if p = .absorb then .violates .readBeforeFinal
  else .runs

end Sys2Proof.Machine
end

