-- ==== Sys2Proof/Machine/Memory.lean ====
section
/-! DEFINITION. Reading and writing the block buffer (spec/00_scope.md R12, spec/20_memory.md R61 to R65): byte addressed,
little-endian, kept in one canonical form. -/

namespace Sys2Proof.Machine

/-- `BUF[addr]` (R11): an unlisted address reads as 0x00 (log entry 4). -/
def bufRead : Buffer → Nat → Byte
  | [], _ => 0#8
  | (b, v) :: m, addr => if b = addr then v else bufRead m addr

/-- `BUF[addr] <- v` (R11), keeping the addresses rising and no 0x00 listed. -/
def bufWrite : Buffer → Nat → Byte → Buffer
  | [], addr, v => if v = 0#8 then [] else [(addr, v)]
  | (b, u) :: m, addr, v =>
    if addr < b then (if v = 0#8 then (b, u) :: m else (addr, v) :: (b, u) :: m)
    else if addr = b then (if v = 0#8 then m else (addr, v) :: m)
    else (b, u) :: bufWrite m addr v

/-- `MemRead(addr, n)` (R12): the sum of `BUF[addr+k] * 2^(8k)`; "the byte at the lowest address is least significant". -/
def memRead (m : Buffer) (addr : Nat) : Nat → Nat
  | 0 => 0
  | n + 1 => (bufRead m addr).toNat + 256 * memRead m (addr + 1) n

/-- `MemWrite(addr, n, v)` (R12): `BUF[addr+k] <- v[8k+7:8k]` for `k` in 0..n-1. -/
@[irreducible] def memWrite (m : Buffer) (addr : Nat) : Nat → Nat → Buffer
  | 0, _ => m
  | n + 1, v => memWrite (bufWrite m addr (BitVec.ofNat 8 v)) (addr + 1) n (v / 256)

/-- `n` bytes 0x00 from `addr` upward: the zero-fill loops of PAD (R156 P3, P5, P6). -/
@[irreducible] def memZero (m : Buffer) (addr : Nat) : Nat → Buffer
  | 0 => m
  | n + 1 => memZero (bufWrite m addr 0#8) (addr + 1) n

/-- The buffer with 0x00 in all 64 bytes (R122: `for i in 0..63: BUF[i] <- 0x00`, "or any wider clear; the result is the
same", R61). -/
def bufClear : Buffer := []

/-- The canonical form: addresses strictly rising and below 64, no byte 0x00 listed. -/
abbrev bufWf (m : Buffer) : Prop := m.Pairwise (fun x y => x.1 < y.1) ∧ ∀ x ∈ m, x.1 < 64 ∧ x.2 ≠ 0#8

/-- `X[j] = MemRead(4j, 4)` (R64): message word `j`, a little-endian view of the buffer. -/
def messageWord (m : Buffer) (j : Nat) : Word := BitVec.ofNat 32 (memRead m (4 * j) 4)

end Sys2Proof.Machine
end

