-- ==== Sys2Proof/Machine/Ops.lean ====
section
/-! DEFINITION. The named operations over the whole state: the output ports, the response, the violation entry and the
reset event, the dispatch of a command, and the body of `INIT`. -/

namespace Sys2Proof.Machine

/-- PHASE[1:0], a status output driven continuously (R33, R106). -/
def State.phaseOut (s : State) : BitVec 2 := s.phase.code

/-- CAUSE[2:0], a status output driven continuously (R33, R106). -/
def State.causeOut (s : State) : BitVec 3 := s.cause

/-- CMD_READY (R106, R107): deasserted "from acceptance until the command has completed". -/
def State.cmdReady (s : State) : Bool := s.seq == .idle

/-- RSP_VALID (R106, R96). -/
def State.rspValid (s : State) : Bool := s.rsp.isSome

/-- No response: "`RSP_VALID` stays deasserted" (R96). -/
def State.silent (s : State) : State := { s with rsp := none }

/-- `respond(v)` (R13): `v` is the response of the current command. -/
def State.respond (v : Byte) (s : State) : State := { s with rsp := some v }

/-- Violation entry (R274), the engine's only exception: `CAUSE <- k`, `PHASE <- FAULT`, no response, "no other state is
written". There is no return from it but the reset event (R277). -/
def State.violation (k : Violation) (s : State) : State :=
  { s with cause := k.code, phase := .fault, rsp := none }

/-- The reset event (R300), the only way out of FAULT (R277): PHASE = UNINIT, CAUSE = 0, the command in progress abandoned
without a response. Every other element, unspecified in the spec, takes the value `State.reset` names (log entry 1). What
the outside has yet to present, and the model's own counter of folds, are not the engine's and stay. -/
def State.resetEvent (s : State) : State :=
  { State.reset with input := s.input, folds := s.folds }

/-- Dispatch of an accepted command (R120): its own rule, or a violation, or nothing at all. A command that does not
respond has no response (R13, R96). -/
def dispatch (c : CommandClass) (body : State → Result) (s : State) : Result :=
  match legality c s.phase with
  | .runs => body s.silent
  | .violates k => .next (s.silent.violation k)
  | .ignored => .next s.silent

/-- Continue a meaning after an operation that may stop. -/
def andThen (r : Result) (f : State → State) : Result :=
  match r with
  | .next s => .next (f s)
  | .fault e => .fault e
  | .refused e => .refused e

/-- The body of `INIT` (R122): the constants of R22, zeroed counters and length latch, a zeroed buffer, PHASE = ABSORB. -/
def State.initialise (s : State) : State :=
  { s with
    acc := ⟨Config.initW0, Config.initW1, Config.initW2, Config.initW3⟩
    nblk := 0
    cnt := 0
    lenlo := 0
    lenhi := 0
    buf := bufClear
    phase := .absorb }

end Sys2Proof.Machine
end

