-- ==== Sys2Proof/Machine/Rounds.lean ====
section
/-! DEFINITION. The round functions and the step template (spec/42_compression.md R185 to R192). -/

namespace Sys2Proof.Machine

/-- Which round function a row selects (R192). -/
inductive Round where
  | r1
  | r2
  | r3
  | r4
  deriving DecidableEq, Repr

/-- `F1(b, c, d) = xor32(d, and32(b, xor32(c, d)))` (R188). -/
def roundF1 (b c d : Word) : Word := xor32 d (and32 b (xor32 c d))

/-- `F2(b, c, d) = F1(d, b, c)` (R189). -/
def roundF2 (b c d : Word) : Word := roundF1 d b c

/-- `F3(b, c, d) = xor32(xor32(b, c), d)` (R190). -/
def roundF3 (b c d : Word) : Word := xor32 (xor32 b c) d

/-- `F4(b, c, d) = xor32(c, or32(b, not32(d)))` (R191). -/
def roundF4 (b c d : Word) : Word := xor32 c (or32 b (not32 d))

/-- The round function of a round (R192). -/
def roundFn : Round → Word → Word → Word → Word
  | .r1 => roundF1
  | .r2 => roundF2
  | .r3 => roundF3
  | .r4 => roundF4

/-- A row of the step schedule (R97): round, message-word index `g`, rotation amount `s`, additive constant `k`. -/
structure Row where
  round : Round
  g : Nat
  s : Nat
  k : Word
  deriving DecidableEq, Repr

/-- `next = add32(b, rotl32(add32(a, F_r(b, c, d), X[g], k), s))` (R185). -/
def stepNext (row : Row) (x : Word) (w : Working) : Word :=
  add32 w.b (rotl32 (add32 (add32 (add32 w.a (roundFn row.round w.b w.c w.d)) x) row.k) row.s)

/-- The step with its role rotation `(a, b, c, d) <- (d, next, b, c)` (R185, R186). -/
def stepRoles (row : Row) (x : Word) (w : Working) : Working := ⟨w.d, stepNext row x w, w.b, w.c⟩

/-- `do step i` (R180 C3): the row's message word is read from the buffer, and only the working registers are written. -/
def State.doStep (row : Row) (s : State) : State :=
  { s with work := stepRoles row (messageWord s.buf row.g) s.work }

end Sys2Proof.Machine
end

