-- ==== Sys2Proof/Machine/Schedule.lean ====
section
/-! DEFINITION. The step schedule (spec/43_step_schedule.md R200 to R263): 64 fixed rows, selected by STEP
(spec/30_encoding.md R97). They are constants, no state (spec/10_state.md R32). -/

namespace Sys2Proof.Machine

/-- R200: step 0, round 1, X[0]. -/
def rowS00 : Row := ⟨.r1, 0, 7, 0xd76aa478⟩

/-- R201: step 1, round 1, X[1]. -/
def rowS01 : Row := ⟨.r1, 1, 12, 0xe8c7b756⟩

/-- R202: step 2, round 1, X[2]. -/
def rowS02 : Row := ⟨.r1, 2, 17, 0x242070db⟩

/-- R203: step 3, round 1, X[3]. -/
def rowS03 : Row := ⟨.r1, 3, 22, 0xc1bdceee⟩

/-- R204: step 4, round 1, X[4]. -/
def rowS04 : Row := ⟨.r1, 4, 7, 0xf57c0faf⟩

/-- R205: step 5, round 1, X[5]. -/
def rowS05 : Row := ⟨.r1, 5, 12, 0x4787c62a⟩

/-- R206: step 6, round 1, X[6]. -/
def rowS06 : Row := ⟨.r1, 6, 17, 0xa8304613⟩

/-- R207: step 7, round 1, X[7]. -/
def rowS07 : Row := ⟨.r1, 7, 22, 0xfd469501⟩

/-- R208: step 8, round 1, X[8]. -/
def rowS08 : Row := ⟨.r1, 8, 7, 0x698098d8⟩

/-- R209: step 9, round 1, X[9]. -/
def rowS09 : Row := ⟨.r1, 9, 12, 0x8b44f7af⟩

/-- R210: step 10, round 1, X[10]. -/
def rowS10 : Row := ⟨.r1, 10, 17, 0xffff5bb1⟩

/-- R211: step 11, round 1, X[11]. -/
def rowS11 : Row := ⟨.r1, 11, 22, 0x895cd7be⟩

/-- R212: step 12, round 1, X[12]. -/
def rowS12 : Row := ⟨.r1, 12, 7, 0x6b901122⟩

/-- R213: step 13, round 1, X[13]. -/
def rowS13 : Row := ⟨.r1, 13, 12, 0xfd987193⟩

/-- R214: step 14, round 1, X[14]. -/
def rowS14 : Row := ⟨.r1, 14, 17, 0xa679438e⟩

/-- R215: step 15, round 1, X[15]. -/
def rowS15 : Row := ⟨.r1, 15, 22, 0x49b40821⟩

/-- R216: step 16, round 2, X[1]. -/
def rowS16 : Row := ⟨.r2, 1, 5, 0xf61e2562⟩

/-- R217: step 17, round 2, X[6]. -/
def rowS17 : Row := ⟨.r2, 6, 9, 0xc040b340⟩

/-- R218: step 18, round 2, X[11]. -/
def rowS18 : Row := ⟨.r2, 11, 14, 0x265e5a51⟩

/-- R219: step 19, round 2, X[0]. -/
def rowS19 : Row := ⟨.r2, 0, 20, 0xe9b6c7aa⟩

/-- R220: step 20, round 2, X[5]. -/
def rowS20 : Row := ⟨.r2, 5, 5, 0xd62f105d⟩

/-- R221: step 21, round 2, X[10]. -/
def rowS21 : Row := ⟨.r2, 10, 9, 0x02441453⟩

/-- R222: step 22, round 2, X[15]. -/
def rowS22 : Row := ⟨.r2, 15, 14, 0xd8a1e681⟩

/-- R223: step 23, round 2, X[4]. -/
def rowS23 : Row := ⟨.r2, 4, 20, 0xe7d3fbc8⟩

/-- R224: step 24, round 2, X[9]. -/
def rowS24 : Row := ⟨.r2, 9, 5, 0x21e1cde6⟩

/-- R225: step 25, round 2, X[14]. -/
def rowS25 : Row := ⟨.r2, 14, 9, 0xc33707d6⟩

/-- R226: step 26, round 2, X[3]. -/
def rowS26 : Row := ⟨.r2, 3, 14, 0xf4d50d87⟩

/-- R227: step 27, round 2, X[8]. -/
def rowS27 : Row := ⟨.r2, 8, 20, 0x455a14ed⟩

/-- R228: step 28, round 2, X[13]. -/
def rowS28 : Row := ⟨.r2, 13, 5, 0xa9e3e905⟩

/-- R229: step 29, round 2, X[2]. -/
def rowS29 : Row := ⟨.r2, 2, 9, 0xfcefa3f8⟩

/-- R230: step 30, round 2, X[7]. -/
def rowS30 : Row := ⟨.r2, 7, 14, 0x676f02d9⟩

/-- R231: step 31, round 2, X[12]. -/
def rowS31 : Row := ⟨.r2, 12, 20, 0x8d2a4c8a⟩

/-- R232: step 32, round 3, X[5]. -/
def rowS32 : Row := ⟨.r3, 5, 4, 0xfffa3942⟩

/-- R233: step 33, round 3, X[8]. -/
def rowS33 : Row := ⟨.r3, 8, 11, 0x8771f681⟩

/-- R234: step 34, round 3, X[11]. -/
def rowS34 : Row := ⟨.r3, 11, 16, 0x6d9d6122⟩

/-- R235: step 35, round 3, X[14]. -/
def rowS35 : Row := ⟨.r3, 14, 23, 0xfde5380c⟩

/-- R236: step 36, round 3, X[1]. -/
def rowS36 : Row := ⟨.r3, 1, 4, 0xa4beea44⟩

/-- R237: step 37, round 3, X[4]. -/
def rowS37 : Row := ⟨.r3, 4, 11, 0x4bdecfa9⟩

/-- R238: step 38, round 3, X[7]. -/
def rowS38 : Row := ⟨.r3, 7, 16, 0xf6bb4b60⟩

/-- R239: step 39, round 3, X[10]. -/
def rowS39 : Row := ⟨.r3, 10, 23, 0xbebfbc70⟩

/-- R240: step 40, round 3, X[13]. -/
def rowS40 : Row := ⟨.r3, 13, 4, 0x289b7ec6⟩

/-- R241: step 41, round 3, X[0]. -/
def rowS41 : Row := ⟨.r3, 0, 11, 0xeaa127fa⟩

/-- R242: step 42, round 3, X[3]. -/
def rowS42 : Row := ⟨.r3, 3, 16, 0xd4ef3085⟩

/-- R243: step 43, round 3, X[6]. -/
def rowS43 : Row := ⟨.r3, 6, 23, 0x04881d05⟩

/-- R244: step 44, round 3, X[9]. -/
def rowS44 : Row := ⟨.r3, 9, 4, 0xd9d4d039⟩

/-- R245: step 45, round 3, X[12]. -/
def rowS45 : Row := ⟨.r3, 12, 11, 0xe6db99e5⟩

/-- R246: step 46, round 3, X[15]. -/
def rowS46 : Row := ⟨.r3, 15, 16, 0x1fa27cf8⟩

/-- R247: step 47, round 3, X[2]. -/
def rowS47 : Row := ⟨.r3, 2, 23, 0xc4ac5665⟩

/-- R248: step 48, round 4, X[0]. -/
def rowS48 : Row := ⟨.r4, 0, 6, 0xf4292244⟩

/-- R249: step 49, round 4, X[7]. -/
def rowS49 : Row := ⟨.r4, 7, 10, 0x432aff97⟩

/-- R250: step 50, round 4, X[14]. -/
def rowS50 : Row := ⟨.r4, 14, 15, 0xab9423a7⟩

/-- R251: step 51, round 4, X[5]. -/
def rowS51 : Row := ⟨.r4, 5, 21, 0xfc93a039⟩

/-- R252: step 52, round 4, X[12]. -/
def rowS52 : Row := ⟨.r4, 12, 6, 0x655b59c3⟩

/-- R253: step 53, round 4, X[3]. -/
def rowS53 : Row := ⟨.r4, 3, 10, 0x8f0ccc92⟩

/-- R254: step 54, round 4, X[10]. -/
def rowS54 : Row := ⟨.r4, 10, 15, 0xffeff47d⟩

/-- R255: step 55, round 4, X[1]. -/
def rowS55 : Row := ⟨.r4, 1, 21, 0x85845dd1⟩

/-- R256: step 56, round 4, X[8]. -/
def rowS56 : Row := ⟨.r4, 8, 6, 0x6fa87e4f⟩

/-- R257: step 57, round 4, X[15]. -/
def rowS57 : Row := ⟨.r4, 15, 10, 0xfe2ce6e0⟩

/-- R258: step 58, round 4, X[6]. -/
def rowS58 : Row := ⟨.r4, 6, 15, 0xa3014314⟩

/-- R259: step 59, round 4, X[13]. -/
def rowS59 : Row := ⟨.r4, 13, 21, 0x4e0811a1⟩

/-- R260: step 60, round 4, X[4]. -/
def rowS60 : Row := ⟨.r4, 4, 6, 0xf7537e82⟩

/-- R261: step 61, round 4, X[11]. -/
def rowS61 : Row := ⟨.r4, 11, 10, 0xbd3af235⟩

/-- R262: step 62, round 4, X[2]. -/
def rowS62 : Row := ⟨.r4, 2, 15, 0x2ad7d2bb⟩

/-- R263: step 63, round 4, X[9]. -/
def rowS63 : Row := ⟨.r4, 9, 21, 0xeb86d391⟩

/-- The rows of round 1, steps 0 to 15. -/
def rowsRound1 : List Row :=
  [rowS00, rowS01, rowS02, rowS03, rowS04, rowS05, rowS06, rowS07,
    rowS08, rowS09, rowS10, rowS11, rowS12, rowS13, rowS14, rowS15]

/-- The rows of round 2, steps 16 to 31. -/
def rowsRound2 : List Row :=
  [rowS16, rowS17, rowS18, rowS19, rowS20, rowS21, rowS22, rowS23,
    rowS24, rowS25, rowS26, rowS27, rowS28, rowS29, rowS30, rowS31]

/-- The rows of round 3, steps 32 to 47. -/
def rowsRound3 : List Row :=
  [rowS32, rowS33, rowS34, rowS35, rowS36, rowS37, rowS38, rowS39,
    rowS40, rowS41, rowS42, rowS43, rowS44, rowS45, rowS46, rowS47]

/-- The rows of round 4, steps 48 to 63. -/
def rowsRound4 : List Row :=
  [rowS48, rowS49, rowS50, rowS51, rowS52, rowS53, rowS54, rowS55,
    rowS56, rowS57, rowS58, rowS59, rowS60, rowS61, rowS62, rowS63]

/-- All 64 rows in the order of STEP. -/
def scheduleRows : List Row := rowsRound1 ++ rowsRound2 ++ rowsRound3 ++ rowsRound4

/-- The row that STEP selects (R97). -/
def scheduleRow (i : BitVec 6) : Row := scheduleRows.getD i.toNat rowS00

end Sys2Proof.Machine
end

