-- ==== Sys2Proof/Machine/Fold.lean ====
section
/-! DEFINITION. FOLD and FLUSH (spec/42_compression.md R180 to R183, R193, spec/41_padding_length.md R150). -/

namespace Sys2Proof.Machine

/-- C1 of FOLD (R180, R182): `(a, b, c, d) <- (W0, W1, W2, W3)`. -/
def workingOf (acc : Accumulators) : Working := ⟨acc.w0, acc.w1, acc.w2, acc.w3⟩

/-- C3 of FOLD (R180): the rows in the order of STEP, each step reading the working registers the one before it left. The
buffer, which nothing writes during a fold (R181), gives the message words. -/
@[irreducible] def foldRows (m : Buffer) : List Row → Working → Working
  | [], w => w
  | row :: rest, w => foldRows m rest (stepRoles row (messageWord m row.g) w)

/-- C4 of FOLD (R180, R183): each working register is added into the corresponding accumulator. -/
def addInto (acc : Accumulators) (w : Working) : Accumulators :=
  ⟨add32 acc.w0 w.a, add32 acc.w1 w.b, add32 acc.w2 w.c, add32 acc.w3 w.d⟩

/-- FOLD as a function of the accumulators and the block alone (R193): all 64 rows, then the add-back. -/
def foldAcc (acc : Accumulators) (m : Buffer) : Accumulators :=
  addInto acc (foldRows m scheduleRows (workingOf acc))

/-- The end of a fold's transient state (R23, R24): outside a fold the working registers and STEP are unspecified, so they
hold free values (log entry 2). -/
def State.releaseWork (s : State) : State :=
  { s with
    work := ⟨Config.freeWord s.folds 0, Config.freeWord s.folds 1, Config.freeWord s.folds 2, Config.freeWord s.folds 3⟩
    stepReg := Config.freeStep s.folds
    folds := s.folds + 1 }

/-- FOLD (R180): fold the block in BUF into W0..W3; BUF, NBLK and CNT are not written. -/
def State.fold (s : State) : State := { s with acc := foldAcc s.acc s.buf }.releaseWork

/-- What FLUSH does after FOLD (R150): count the block (NBLK wraps silently, R27), empty the buffer. -/
def State.countBlock (s : State) : State := { s with nblk := add32 s.nblk 1, cnt := 0 }

/-- FLUSH (R150): FOLD; `NBLK <- add32(NBLK, 1)`; `CNT <- 0`. -/
def State.flush (s : State) : State := s.fold.countBlock

end Sys2Proof.Machine
end

