-- ==== Sys2Proof/Machine/Operands.lean ====
section
/-! DEFINITION. The operand forms: the CNT-indexed store of `WRITE` (spec/40_host_commands.md R123), the direct load of
`READ` (R126), and the words that PLACELEN and SERIALIZE store (spec/20_memory.md R78, R79). The message word of a step
(R64) is `messageWord` in Memory.lean. -/

namespace Sys2Proof.Machine

/-- The implicit, CNT-indexed store with post-increment (R123): `MemWrite(CNT, 1, v) ; CNT <- CNT + 1`. The address
must lie in the buffer (R12, R63). -/
def storeAtCnt (v : Byte) (s : State) : Result :=
  if s.cnt.toNat < Config.blockBytes then
    .next { s with buf := bufWrite s.buf s.cnt.toNat v, cnt := s.cnt + 1 }
  else .fault (.bufferAddress s.cnt.toNat)

/-- The direct load of `READ` (R126): `MemRead(idx, 1)`, "a byte is returned as a byte". -/
def loadDirect (idx : BitVec 4) (s : State) : Byte := bufRead s.buf idx.toNat

/-- `MemWrite(addr, 4, w)` of a word (R12, R78, R79). -/
def storeWord (m : Buffer) (addr : Nat) (w : Word) : Buffer := memWrite m addr 4 w.toNat

end Sys2Proof.Machine
end

