-- ==== Sys2Proof/Machine/Commands.lean ====
section
/-! DEFINITION. The four host commands (spec/40_host_commands.md R120 to R126) and the micro-operations of `FINAL`
(spec/41_padding_length.md R151 to R163). A command is atomic (spec/00_scope.md R5): its meaning is its whole effect. -/

namespace Sys2Proof.Machine

/-- Lines L1 to L8 of LENGTH (R152): the bit length of `nblk` blocks and `cnt` bytes as (low word, high word). -/
def lengthWords (nblk : Word) (cnt : BitVec 7) : Word × Word :=
  let lo1 := shl32 nblk 6
  let hi1 := shr32 nblk 26
  let lo2 := add32 lo1 (zext32 cnt)
  let hi2 := if lo2 < lo1 then add32 hi1 1 else hi1
  (shl32 lo2 3, or32 (shl32 hi2 3) (shr32 lo2 29))

/-- LENGTH (R151, R152): `LENLO <- lo ; LENHI <- hi`. -/
def State.latchLength (s : State) : State :=
  { s with lenlo := (lengthWords s.nblk s.cnt).1, lenhi := (lengthWords s.nblk s.cnt).2 }

/-- F0 of `FINAL` (R124, R163): "flushes any pending full block". -/
def State.flushPending (s : State) : State := if s.cnt = 64 then s.flush else s

/-- A zero-fill loop of PAD (R156 P3, P6): 0x00 from CNT upward until CNT is `limit`. -/
def State.zeroFill (limit : BitVec 7) (s : State) : State :=
  { s with buf := memZero s.buf s.cnt.toNat (limit.toNat - s.cnt.toNat), cnt := limit }

/-- P5 of PAD (R156, R157): bytes 0..55 of the second block are 0x00, `CNT <- 56`. -/
def State.zeroHead (s : State) : State := { s with buf := memZero s.buf 0 56, cnt := 56 }

/-- P2 to P6 of PAD (R156): after the marker, the two-block path when CNT > 56, else the one-block path. -/
def State.padZeros (s : State) : State :=
  if 56 < s.cnt then (s.zeroFill 64).flush.zeroHead else s.zeroFill 56

/-- PLACELEN (R159, R78): the latched length, low word first, at 56..63; `CNT <- 64`. -/
def State.placeLen (s : State) : State :=
  { s with
    buf := storeWord (storeWord s.buf Config.padTarget s.lenlo) (Config.padTarget + 4) s.lenhi
    cnt := 64 }

/-- SERIALIZE (R160, R79): `MemWrite(4*j, 4, W[j])` for j = 0, 1, 2, 3. -/
def State.serialize (s : State) : State :=
  { s with
    buf := storeWord (storeWord (storeWord (storeWord s.buf 0 s.acc.w0) 4 s.acc.w1) 8 s.acc.w2) 12 s.acc.w3 }

/-- `PHASE <- DONE` (R124 F6). -/
def State.markDone (s : State) : State := { s with phase := .done }

/-- F3 to F6 of `FINAL` (R124): PLACELEN, FLUSH, SERIALIZE, `PHASE <- DONE`. -/
def State.finishFinal (s : State) : State := s.placeLen.flush.serialize.markDone

/-- `INIT` (R122). -/
def execInit (s : State) : Result := dispatch .init (fun s => .next s.initialise) s

/-- The end of `WRITE` (R123): `if CNT = 64: FLUSH`. -/
def State.flushIfFull (s : State) : State := if s.cnt = 64 then s.flush else s

/-- `WRITE data` (R123): store at CNT, advance CNT, fold inside the command when the block is complete. -/
def execWrite (data : Byte) (s : State) : Result :=
  dispatch .write (fun s => andThen (storeAtCnt data s) State.flushIfFull) s

/-- `FINAL` (R124): F0 and F1, the marker of PAD (R155), the rest of PAD, then F3 to F6. -/
def execFinal (s : State) : Result :=
  dispatch .final
    (fun s => andThen (storeAtCnt Config.padMarker s.flushPending.latchLength) fun s => s.padZeros.finishFinal) s

/-- `READ idx` (R126): `respond(MemRead(idx, 1))`; no state changes but the response. -/
def execRead (idx : BitVec 4) (s : State) : Result :=
  dispatch .read (fun s => .next (s.respond (loadDirect idx s))) s

/-- A reserved word (R94, R120 E1, E3): ignored in FAULT, else violation 5. It is no instruction of the table, so `step`
calls this. -/
def execReserved (s : State) : Result := dispatch .reserved (fun s => .next s) s

end Sys2Proof.Machine
end

