-- ==== Sys2Proof/Machine/Round1.lean ====
section
/-! DEFINITION. The meanings of steps 0 to 15, round 1, round function F1 (spec/43_step_schedule.md R200 to
R215): each does its row of the schedule on the working registers, whatever their values. -/

namespace Sys2Proof.Machine

/-- S00 (R200). -/
def execS00 (s : State) : Result := .next (s.doStep rowS00)

/-- S01 (R201). -/
def execS01 (s : State) : Result := .next (s.doStep rowS01)

/-- S02 (R202). -/
def execS02 (s : State) : Result := .next (s.doStep rowS02)

/-- S03 (R203). -/
def execS03 (s : State) : Result := .next (s.doStep rowS03)

/-- S04 (R204). -/
def execS04 (s : State) : Result := .next (s.doStep rowS04)

/-- S05 (R205). -/
def execS05 (s : State) : Result := .next (s.doStep rowS05)

/-- S06 (R206). -/
def execS06 (s : State) : Result := .next (s.doStep rowS06)

/-- S07 (R207). -/
def execS07 (s : State) : Result := .next (s.doStep rowS07)

/-- S08 (R208). -/
def execS08 (s : State) : Result := .next (s.doStep rowS08)

/-- S09 (R209). -/
def execS09 (s : State) : Result := .next (s.doStep rowS09)

/-- S10 (R210). -/
def execS10 (s : State) : Result := .next (s.doStep rowS10)

/-- S11 (R211). -/
def execS11 (s : State) : Result := .next (s.doStep rowS11)

/-- S12 (R212). -/
def execS12 (s : State) : Result := .next (s.doStep rowS12)

/-- S13 (R213). -/
def execS13 (s : State) : Result := .next (s.doStep rowS13)

/-- S14 (R214). -/
def execS14 (s : State) : Result := .next (s.doStep rowS14)

/-- S15 (R215). -/
def execS15 (s : State) : Result := .next (s.doStep rowS15)

end Sys2Proof.Machine
end

