-- ==== Sys2Proof/Machine/Round2.lean ====
section
/-! DEFINITION. The meanings of steps 16 to 31, round 2, round function F2 (spec/43_step_schedule.md R216 to
R231): each does its row of the schedule on the working registers, whatever their values. -/

namespace Sys2Proof.Machine

/-- S16 (R216). -/
def execS16 (s : State) : Result := .next (s.doStep rowS16)

/-- S17 (R217). -/
def execS17 (s : State) : Result := .next (s.doStep rowS17)

/-- S18 (R218). -/
def execS18 (s : State) : Result := .next (s.doStep rowS18)

/-- S19 (R219). -/
def execS19 (s : State) : Result := .next (s.doStep rowS19)

/-- S20 (R220). -/
def execS20 (s : State) : Result := .next (s.doStep rowS20)

/-- S21 (R221). -/
def execS21 (s : State) : Result := .next (s.doStep rowS21)

/-- S22 (R222). -/
def execS22 (s : State) : Result := .next (s.doStep rowS22)

/-- S23 (R223). -/
def execS23 (s : State) : Result := .next (s.doStep rowS23)

/-- S24 (R224). -/
def execS24 (s : State) : Result := .next (s.doStep rowS24)

/-- S25 (R225). -/
def execS25 (s : State) : Result := .next (s.doStep rowS25)

/-- S26 (R226). -/
def execS26 (s : State) : Result := .next (s.doStep rowS26)

/-- S27 (R227). -/
def execS27 (s : State) : Result := .next (s.doStep rowS27)

/-- S28 (R228). -/
def execS28 (s : State) : Result := .next (s.doStep rowS28)

/-- S29 (R229). -/
def execS29 (s : State) : Result := .next (s.doStep rowS29)

/-- S30 (R230). -/
def execS30 (s : State) : Result := .next (s.doStep rowS30)

/-- S31 (R231). -/
def execS31 (s : State) : Result := .next (s.doStep rowS31)

end Sys2Proof.Machine
end

