-- ==== Sys2Proof/Machine/Round3.lean ====
section
/-! DEFINITION. The meanings of steps 32 to 47, round 3, round function F3 (spec/43_step_schedule.md R232 to
R247): each does its row of the schedule on the working registers, whatever their values. -/

namespace Sys2Proof.Machine

/-- S32 (R232). -/
def execS32 (s : State) : Result := .next (s.doStep rowS32)

/-- S33 (R233). -/
def execS33 (s : State) : Result := .next (s.doStep rowS33)

/-- S34 (R234). -/
def execS34 (s : State) : Result := .next (s.doStep rowS34)

/-- S35 (R235). -/
def execS35 (s : State) : Result := .next (s.doStep rowS35)

/-- S36 (R236). -/
def execS36 (s : State) : Result := .next (s.doStep rowS36)

/-- S37 (R237). -/
def execS37 (s : State) : Result := .next (s.doStep rowS37)

/-- S38 (R238). -/
def execS38 (s : State) : Result := .next (s.doStep rowS38)

/-- S39 (R239). -/
def execS39 (s : State) : Result := .next (s.doStep rowS39)

/-- S40 (R240). -/
def execS40 (s : State) : Result := .next (s.doStep rowS40)

/-- S41 (R241). -/
def execS41 (s : State) : Result := .next (s.doStep rowS41)

/-- S42 (R242). -/
def execS42 (s : State) : Result := .next (s.doStep rowS42)

/-- S43 (R243). -/
def execS43 (s : State) : Result := .next (s.doStep rowS43)

/-- S44 (R244). -/
def execS44 (s : State) : Result := .next (s.doStep rowS44)

/-- S45 (R245). -/
def execS45 (s : State) : Result := .next (s.doStep rowS45)

/-- S46 (R246). -/
def execS46 (s : State) : Result := .next (s.doStep rowS46)

/-- S47 (R247). -/
def execS47 (s : State) : Result := .next (s.doStep rowS47)

end Sys2Proof.Machine
end

