-- ==== Sys2Proof/Machine/Round4.lean ====
section
/-! DEFINITION. The meanings of steps 48 to 63, round 4, round function F4 (spec/43_step_schedule.md R248 to
R263): each does its row of the schedule on the working registers, whatever their values. -/

namespace Sys2Proof.Machine

/-- S48 (R248). -/
def execS48 (s : State) : Result := .next (s.doStep rowS48)

/-- S49 (R249). -/
def execS49 (s : State) : Result := .next (s.doStep rowS49)

/-- S50 (R250). -/
def execS50 (s : State) : Result := .next (s.doStep rowS50)

/-- S51 (R251). -/
def execS51 (s : State) : Result := .next (s.doStep rowS51)

/-- S52 (R252). -/
def execS52 (s : State) : Result := .next (s.doStep rowS52)

/-- S53 (R253). -/
def execS53 (s : State) : Result := .next (s.doStep rowS53)

/-- S54 (R254). -/
def execS54 (s : State) : Result := .next (s.doStep rowS54)

/-- S55 (R255). -/
def execS55 (s : State) : Result := .next (s.doStep rowS55)

/-- S56 (R256). -/
def execS56 (s : State) : Result := .next (s.doStep rowS56)

/-- S57 (R257). -/
def execS57 (s : State) : Result := .next (s.doStep rowS57)

/-- S58 (R258). -/
def execS58 (s : State) : Result := .next (s.doStep rowS58)

/-- S59 (R259). -/
def execS59 (s : State) : Result := .next (s.doStep rowS59)

/-- S60 (R260). -/
def execS60 (s : State) : Result := .next (s.doStep rowS60)

/-- S61 (R261). -/
def execS61 (s : State) : Result := .next (s.doStep rowS61)

/-- S62 (R262). -/
def execS62 (s : State) : Result := .next (s.doStep rowS62)

/-- S63 (R263). -/
def execS63 (s : State) : Result := .next (s.doStep rowS63)

end Sys2Proof.Machine
end

