-- ==== Sys2Proof/Machine/Dispatch.lean ====
section
/-! DEFINITION. One arm per constructor of Instr, each a direct call of that instruction's meaning. -/

namespace Sys2Proof.Machine

open Host

def exec (i : Instr) (s : State) : Host.Outcome State Fault Refusal :=
  match i with
  | .init => Sys2Proof.Machine.execInit s
  | .write data => Sys2Proof.Machine.execWrite data s
  | .final => Sys2Proof.Machine.execFinal s
  | .read idx => Sys2Proof.Machine.execRead idx s
  | .s00 => Sys2Proof.Machine.execS00 s
  | .s01 => Sys2Proof.Machine.execS01 s
  | .s02 => Sys2Proof.Machine.execS02 s
  | .s03 => Sys2Proof.Machine.execS03 s
  | .s04 => Sys2Proof.Machine.execS04 s
  | .s05 => Sys2Proof.Machine.execS05 s
  | .s06 => Sys2Proof.Machine.execS06 s
  | .s07 => Sys2Proof.Machine.execS07 s
  | .s08 => Sys2Proof.Machine.execS08 s
  | .s09 => Sys2Proof.Machine.execS09 s
  | .s10 => Sys2Proof.Machine.execS10 s
  | .s11 => Sys2Proof.Machine.execS11 s
  | .s12 => Sys2Proof.Machine.execS12 s
  | .s13 => Sys2Proof.Machine.execS13 s
  | .s14 => Sys2Proof.Machine.execS14 s
  | .s15 => Sys2Proof.Machine.execS15 s
  | .s16 => Sys2Proof.Machine.execS16 s
  | .s17 => Sys2Proof.Machine.execS17 s
  | .s18 => Sys2Proof.Machine.execS18 s
  | .s19 => Sys2Proof.Machine.execS19 s
  | .s20 => Sys2Proof.Machine.execS20 s
  | .s21 => Sys2Proof.Machine.execS21 s
  | .s22 => Sys2Proof.Machine.execS22 s
  | .s23 => Sys2Proof.Machine.execS23 s
  | .s24 => Sys2Proof.Machine.execS24 s
  | .s25 => Sys2Proof.Machine.execS25 s
  | .s26 => Sys2Proof.Machine.execS26 s
  | .s27 => Sys2Proof.Machine.execS27 s
  | .s28 => Sys2Proof.Machine.execS28 s
  | .s29 => Sys2Proof.Machine.execS29 s
  | .s30 => Sys2Proof.Machine.execS30 s
  | .s31 => Sys2Proof.Machine.execS31 s
  | .s32 => Sys2Proof.Machine.execS32 s
  | .s33 => Sys2Proof.Machine.execS33 s
  | .s34 => Sys2Proof.Machine.execS34 s
  | .s35 => Sys2Proof.Machine.execS35 s
  | .s36 => Sys2Proof.Machine.execS36 s
  | .s37 => Sys2Proof.Machine.execS37 s
  | .s38 => Sys2Proof.Machine.execS38 s
  | .s39 => Sys2Proof.Machine.execS39 s
  | .s40 => Sys2Proof.Machine.execS40 s
  | .s41 => Sys2Proof.Machine.execS41 s
  | .s42 => Sys2Proof.Machine.execS42 s
  | .s43 => Sys2Proof.Machine.execS43 s
  | .s44 => Sys2Proof.Machine.execS44 s
  | .s45 => Sys2Proof.Machine.execS45 s
  | .s46 => Sys2Proof.Machine.execS46 s
  | .s47 => Sys2Proof.Machine.execS47 s
  | .s48 => Sys2Proof.Machine.execS48 s
  | .s49 => Sys2Proof.Machine.execS49 s
  | .s50 => Sys2Proof.Machine.execS50 s
  | .s51 => Sys2Proof.Machine.execS51 s
  | .s52 => Sys2Proof.Machine.execS52 s
  | .s53 => Sys2Proof.Machine.execS53 s
  | .s54 => Sys2Proof.Machine.execS54 s
  | .s55 => Sys2Proof.Machine.execS55 s
  | .s56 => Sys2Proof.Machine.execS56 s
  | .s57 => Sys2Proof.Machine.execS57 s
  | .s58 => Sys2Proof.Machine.execS58 s
  | .s59 => Sys2Proof.Machine.execS59 s
  | .s60 => Sys2Proof.Machine.execS60 s
  | .s61 => Sys2Proof.Machine.execS61 s
  | .s62 => Sys2Proof.Machine.execS62 s
  | .s63 => Sys2Proof.Machine.execS63 s

end Sys2Proof.Machine
end

