-- ==== Sys2Proof/Machine/Sequencer.lean ====
section
/-! DEFINITION. The sequencer inside a command (spec/41_padding_length.md R161): what follows a step of a fold, where a fold
returns to, and how an event of the port is taken. -/

namespace Sys2Proof.Machine

/-- C1 and C2 of FOLD on the state (R180, R182): the working registers are loaded, `STEP <- 0`. -/
def State.foldStart (s : State) : State := { s with work := workingOf s.acc, stepReg := 0 }

/-- C4 of FOLD on the state (R183). -/
def State.addBack (s : State) : State := { s with acc := addInto s.acc s.work }

/-- The "recorded return state" of a fold (R161): IDLE after the fold of a `WRITE`; after the first fold of a two-block
`FINAL`, F_ZERO_B and F_LENPUT and the next fold; after the last fold of `FINAL`, F_SER. -/
def State.afterFold (s : State) : State :=
  match s.seq with
  | .idle => s
  | .foldToIdle => { s with seq := .idle }
  | .foldToSecondBlock => { s.zeroHead.placeLen.foldStart with seq := .foldToSerialize }
  | .foldToSerialize => { s.serialize.markDone with seq := .idle }

/-- What the sequencer does after the step that STEP selected (R180 C3, R161): `STEP <- STEP + 1`; "after step 63 add back,
`NBLK + 1`, `CNT <- 0`", and the recorded return. -/
def State.stepDone (s : State) : State :=
  if s.stepReg = 63 then s.addBack.releaseWork.countBlock.afterFold
  else { s with stepReg := s.stepReg + 1 }

/-- FOLD_0 entered with a return recorded (R161, R180 C1, C2). -/
def State.enterFold (ret : Seq) (s : State) : State := { s.foldStart with seq := ret }

/-- F_MARK done, the rest of `FINAL` up to its first FOLD_0 (R161): F_ZERO_A, or F_ZERO_C and F_LENPUT. -/
def State.finalToFold (s : State) : State :=
  if 56 < s.cnt then (s.zeroFill 64).enterFold .foldToSecondBlock
  else (s.zeroFill 56).placeLen.enterFold .foldToSerialize

/-- What the engine does next. -/
inductive Fetched where
  /-- RST is asserted (R300): it acts also inside a command (R311). -/
  | reset (rest : List PortEvent)
  /-- Inside a fold: the row that STEP selects (R97). -/
  | row (i : BitVec 6)
  /-- At a command boundary: the next command word is accepted (R107). -/
  | command (w : BitVec 10) (rest : List PortEvent)
  /-- At a command boundary with nothing presented: the engine is idle (R285). -/
  | nothing
  deriving DecidableEq, Repr

/-- Reset first (R311); inside a fold no word is accepted (R107: `CMD_READY` is deasserted); at a boundary the words are
accepted in order. -/
def fetch (s : State) : Fetched :=
  match s.input with
  | .reset :: rest => .reset rest
  | .command w :: rest => if s.seq = .idle then .command w rest else .row s.stepReg
  | [] => if s.seq = .idle then .nothing else .row s.stepReg

/-- The pending events without resets at their front: RST is not asserted. -/
def dropResets : List PortEvent → List PortEvent
  | [] => []
  | .reset :: rest => dropResets rest
  | .command w :: rest => .command w :: rest

/-- `s` about to fetch the instruction that `sel` selects: the word is the next that the port presents to an idle engine;
or a fold is in progress, to return to IDLE, with STEP selecting the row, and RST is not asserted. -/
def State.withSelector (s : State) : Selector → State
  | .command w => { s with input := .command w :: s.input, seq := .idle }
  | .row i => { s with stepReg := i, seq := .foldToIdle, input := dropResets s.input }

end Sys2Proof.Machine
end

