-- ==== Sys2Proof/Machine/Step.lean ====
section
/-! DEFINITION. One step of the engine: at a command boundary one whole accepted command (spec/00_scope.md R5,
spec/40_host_commands.md R120), inside a fold one step of the schedule (spec/42_compression.md R180). -/

namespace Sys2Proof.Machine

/-- One step: the reset event, or the selected row and what the sequencer does after it, or the next command word, or, with
nothing presented, no change (R285: "Between commands the engine is idle and keeps all state indefinitely"). -/
def step (s : State) : Host.Outcome State Fault Refusal :=
  match fetch s with
  | .reset rest => .next { s with input := rest }.resetEvent
  | .row i => andThen (exec (stepInstr i) s) State.stepDone
  | .command w rest =>
    match decodeCommand w with
    | .ok i => exec i { s with input := rest }
    | .error _ => execReserved { s with input := rest }
  | .nothing => .next s

/-- `s` with the opcode table's word `w` where `step` fetches its next instruction (log entry 6). -/
def State.withFetchWord (s : State) (nbits w : Nat) : State :=
  match tableSelector nbits w with
  | some sel => s.withSelector sel
  | none => s

end Sys2Proof.Machine
end

