-- ==== Sys2Proof/Safety.lean ====
section
/-! DEFINITION. The terms the claims use: what a command boundary guarantees, what the host can observe, and the algorithm
written a second time from the spec's tables and byte layouts (R64, R78, R79, R162, R182 to R198), so that a claim compares
the machine with the spec's arithmetic and not with itself. -/

namespace Sys2Proof

open Sys2Proof.Machine

/-! ### Tables of spec/43_step_schedule.md -/

/-- The additive constants K[0..63] (R196). -/
def tableK : List Word :=
  [0xd76aa478, 0xe8c7b756, 0x242070db, 0xc1bdceee, 0xf57c0faf, 0x4787c62a, 0xa8304613, 0xfd469501,
   0x698098d8, 0x8b44f7af, 0xffff5bb1, 0x895cd7be, 0x6b901122, 0xfd987193, 0xa679438e, 0x49b40821,
   0xf61e2562, 0xc040b340, 0x265e5a51, 0xe9b6c7aa, 0xd62f105d, 0x02441453, 0xd8a1e681, 0xe7d3fbc8,
   0x21e1cde6, 0xc33707d6, 0xf4d50d87, 0x455a14ed, 0xa9e3e905, 0xfcefa3f8, 0x676f02d9, 0x8d2a4c8a,
   0xfffa3942, 0x8771f681, 0x6d9d6122, 0xfde5380c, 0xa4beea44, 0x4bdecfa9, 0xf6bb4b60, 0xbebfbc70,
   0x289b7ec6, 0xeaa127fa, 0xd4ef3085, 0x04881d05, 0xd9d4d039, 0xe6db99e5, 0x1fa27cf8, 0xc4ac5665,
   0xf4292244, 0x432aff97, 0xab9423a7, 0xfc93a039, 0x655b59c3, 0x8f0ccc92, 0xffeff47d, 0x85845dd1,
   0x6fa87e4f, 0xfe2ce6e0, 0xa3014314, 0x4e0811a1, 0xf7537e82, 0xbd3af235, 0x2ad7d2bb, 0xeb86d391]

/-- The rotation amount S[i] (R197): the round's four amounts, by `i mod 4`. -/
def tableS (i : Nat) : Nat :=
  (([[7, 12, 17, 22], [5, 9, 14, 20], [4, 11, 16, 23], [6, 10, 15, 21]] : List (List Nat)).getD (i / 16) []).getD (i % 4) 0

/-- The message-word index G[i] (R198), with `t = i mod 16`. -/
def tableG (i : Nat) : Nat :=
  if i / 16 = 0 then i % 16
  else if i / 16 = 1 then (5 * (i % 16) + 1) % 16
  else if i / 16 = 2 then (3 * (i % 16) + 5) % 16
  else 7 * (i % 16) % 16

/-! ### The step of spec/42_compression.md -/

/-- `d xor (b and (c xor d))` (R188). -/
def specF1 (b c d : Word) : Word := d ^^^ (b &&& (c ^^^ d))

/-- `c xor (d and (b xor c))` (R189). -/
def specF2 (b c d : Word) : Word := c ^^^ (d &&& (b ^^^ c))

/-- `b xor c xor d` (R190). -/
def specF3 (b c d : Word) : Word := b ^^^ c ^^^ d

/-- `c xor (b or (not d))` (R191). -/
def specF4 (b c d : Word) : Word := c ^^^ (b ||| ~~~d)

/-- Step `i` uses F_r with `r = floor(i / 16) + 1` (R192). -/
def specF (i : Nat) (b c d : Word) : Word :=
  if i / 16 = 0 then specF1 b c d
  else if i / 16 = 1 then specF2 b c d
  else if i / 16 = 2 then specF3 b c d
  else specF4 b c d

/-- `next = rotate_left(a + f + x + k, n) + b` and the roles after the step, `(a, b, c, d) <- (d, next, b, c)` (R185,
R186), for the round function `f`. -/
def specRoles (f : Word → Word → Word → Word) (x k : Word) (n : Nat) (w : Working) : Working :=
  ⟨w.d, w.b + (w.a + f w.b w.c w.d + x + k).rotateLeft n, w.b, w.c⟩

/-- Step `i` of a fold on the working registers, from the tables (R185), with message word `x`. -/
def specStep (i : Nat) (x : Word) (w : Working) : Working :=
  specRoles (specF i) x (tableK.getD i 0) (tableS i) w

/-- The physical registers (RA, RB, RC, RD) before step `i` (R187): the roles move with period 4, no value does. -/
def physical (i : Nat) (w : Working) : Word × Word × Word × Word :=
  if i % 4 = 0 then (w.a, w.b, w.c, w.d)
  else if i % 4 = 1 then (w.b, w.c, w.d, w.a)
  else if i % 4 = 2 then (w.c, w.d, w.a, w.b)
  else (w.d, w.a, w.b, w.c)

/-- The assignment to one physical register (R187): `x <- add32(y, rotl32(add32(x, f(y, z, u), m, k), n))`. -/
def physicalNext (f : Word → Word → Word → Word) (m k : Word) (n : Nat) (x y z u : Word) : Word :=
  y + (x + f y z u + m + k).rotateLeft n

/-- R187: which register step `i` writes, and with what; "the other three registers keep their values". -/
def physicalStep (i : Nat) (f : Word → Word → Word → Word) (m k : Word) (n : Nat) :
    Word × Word × Word × Word → Word × Word × Word × Word
  | (ra, rb, rc, rd) =>
    if i % 4 = 0 then (physicalNext f m k n ra rb rc rd, rb, rc, rd)
    else if i % 4 = 1 then (ra, rb, rc, physicalNext f m k n rd ra rb rc)
    else if i % 4 = 2 then (ra, rb, physicalNext f m k n rc rd ra rb, rd)
    else (ra, physicalNext f m k n rb rc rd ra, rc, rd)

/-- `X[g] = BUF[4g] + BUF[4g+1] * 2^8 + BUF[4g+2] * 2^16 + BUF[4g+3] * 2^24` (R64), of a buffer. -/
def specWord (m : Buffer) (g : Nat) : Word :=
  (bufRead m (4 * g)).setWidth 32 + (bufRead m (4 * g + 1)).setWidth 32 * 0x100#32
    + (bufRead m (4 * g + 2)).setWidth 32 * 0x10000#32 + (bufRead m (4 * g + 3)).setWidth 32 * 0x1000000#32

/-- What the rule of step `i` says (R200 + i): STEP = `i` selects it; its effect by role; the same by physical register;
nothing else changes. -/
def StepRule (i : Nat) (ins : Instr) (f : Word → Word → Word → Word) (g n : Nat) (k : Word) : Prop :=
  stepInstr (BitVec.ofNat 6 i) = ins ∧
  ∀ s : State,
    exec ins s = .next { s with work := specRoles f (specWord s.buf g) k n s.work } ∧
    physical (i + 1) (specRoles f (specWord s.buf g) k n s.work)
      = physicalStep i f (specWord s.buf g) k n (physical i s.work)

/-! ### One block, and a message -/

/-- `X[j]` of a block given as a list of 64 bytes (R64). -/
def blockWord (blk : List Byte) (j : Nat) : Word :=
  (blk.getD (4 * j) 0).setWidth 32 + (blk.getD (4 * j + 1) 0).setWidth 32 * 0x100#32
    + (blk.getD (4 * j + 2) 0).setWidth 32 * 0x10000#32 + (blk.getD (4 * j + 3) 0).setWidth 32 * 0x1000000#32

/-- The `n` steps `i`, `i + 1`, ... of a fold of the block, in order (R180). -/
@[irreducible] def specSteps (blk : List Byte) : (n i : Nat) → Working → Working
  | 0, _, w => w
  | n + 1, i, w => specSteps blk n (i + 1) (specStep i (blockWord blk (tableG i)) w)

/-- `Fold : (Word^4, Byte^64) -> Word^4` (R193): 64 steps from the accumulators, added back (R182, R183). -/
def specFold (acc : Accumulators) (blk : List Byte) : Accumulators :=
  let w := specSteps blk 64 0 ⟨acc.w0, acc.w1, acc.w2, acc.w3⟩
  ⟨acc.w0 + w.a, acc.w1 + w.b, acc.w2 + w.c, acc.w3 + w.d⟩

/-- The initial constants W0..W3 (R22). -/
def initAcc : Accumulators := ⟨0x67452301, 0xefcdab89, 0x98badcfe, 0x10325476⟩

/-- The first `n` bytes of the buffer. -/
def bufBytes (m : Buffer) (n : Nat) : List Byte := (List.range n).map (bufRead m)

/-- `v` as 8 bytes, little-endian: the length field (R78). -/
def lengthField (v : Nat) : List Byte := (List.range 8).map fun k => BitVec.ofNat 8 (v / 256 ^ k)

/-- Digest byte `i`, 0..15 (R79): `BUF[4j + k] = W[j][8k+7 : 8k]`. -/
def digestByte (acc : Accumulators) (i : Nat) : Byte :=
  (([acc.w0, acc.w1, acc.w2, acc.w3] : List Word).getD (i / 4) 0).extractLsb' (8 * (i % 4)) 8

/-- The padded message (R162): the message bytes, 0x80, `(55 - n) mod 64` bytes 0x00, the 8 bytes of the bit length. -/
def padded (msg : List Byte) : List Byte :=
  msg ++ 0x80 :: (List.replicate ((119 - msg.length % 64) % 64) 0 ++ lengthField (8 * msg.length))

/-- The left fold of `Fold` over the first `n` blocks of 64 bytes (R193). -/
@[irreducible] def foldBlocks : Nat → Accumulators → List Byte → Accumulators
  | 0, acc, _ => acc
  | n + 1, acc, l => foldBlocks n (specFold acc (l.take 64)) (l.drop 64)

/-- The digest words of a message: the initial constants folded over its padded blocks (R193, R162). -/
def messageAcc (msg : List Byte) : Accumulators := foldBlocks ((padded msg).length / 64) initAcc (padded msg)

/-- INV3 of R35: the state after `msg` has been written since the last `INIT`, in phase ABSORB. -/
def Absorbed (msg : List Byte) (s : State) : Prop :=
  s.phase = .absorb ∧ s.cnt.toNat = msg.length % 64 ∧ s.nblk = BitVec.ofNat 32 (msg.length / 64) ∧
  (∀ i, i < msg.length % 64 → bufRead s.buf i = msg.getD (64 * (msg.length / 64) + i) 0) ∧
  s.acc = foldBlocks (msg.length / 64) initAcc msg

/-! ### Command boundaries and observation -/

/-- The words that stand for no command, by their three ranges (R94). -/
abbrev reservedWord (w : BitVec 10) : Prop :=
  (0x001 ≤ w.toNat ∧ w.toNat ≤ 0x0FF) ∨ (0x201 ≤ w.toNat ∧ w.toNat ≤ 0x2FF) ∨ (0x310 ≤ w.toNat ∧ w.toNat ≤ 0x3FF)

/-- The table of R121 as cause codes, over the words themselves (R92): the code with which an accepted word is a violation
in a phase, and nothing where it executes or is ignored. -/
def violationCause (p : Phase) (w : BitVec 10) : Option (BitVec 3) :=
  match p with
  | .uninit => if reservedWord w then some 5 else if w.toNat = 0 then none else some 1
  | .absorb => if reservedWord w then some 5 else if 0x300 ≤ w.toNat then some 4 else none
  | .done =>
    if reservedWord w then some 5
    else if 0x100 ≤ w.toNat ∧ w.toNat ≤ 0x1FF then some 2
    else if w.toNat = 0x200 then some 3
    else none
  | .fault => none

/-- What holds at every command boundary (R35): the buffer is in canonical form (the model's own); INV2; INV4; INV5 and the
codes of R271; and a response is only there in phase DONE and is a digest byte (R96, R17). -/
def BoundaryInv (s : State) : Prop :=
  s.seq = .idle ∧ bufWf s.buf ∧
  (s.phase = .absorb → s.cnt.toNat ≤ 63) ∧
  (s.phase = .done → s.cnt = 0 ∧ ∀ i, i < 16 → bufRead s.buf i = digestByte s.acc i) ∧
  (s.phase = .fault ↔ s.cause ≠ 0) ∧ s.cause.toNat ≤ 5 ∧
  (∀ v, s.rsp = some v → s.phase = .done ∧ ∃ i, i < 16 ∧ v = digestByte s.acc i)

/-- What the host can observe (R17, R33, R106): the status outputs, CMD_READY, and the response. -/
def observe (s : State) : BitVec 2 × BitVec 3 × Bool × Option Byte :=
  (s.phaseOut, s.causeOut, s.cmdReady, s.rsp)

/-- RST is not asserted: no reset is at the front of the events. -/
def NoReset (s : State) : Prop := ∀ rest, s.input ≠ .reset :: rest

end Sys2Proof
end

