-- ==== Sys2Proof/Certificates/Slice0/Obligations.lean ====
section
/-! DEFINITION. The statements for the provers, from the spec's rules. -/

open Sys2Proof
open Sys2Proof.Machine

/-- State.reset shows PHASE = 0 (UNINIT) and CAUSE = 0, CMD_READY is asserted and RSP_VALID is not. (derived:
70_reset_and_hazards.md section 1 (Reset), 10_state.md section 1 (Inventory)) -/
def Obligations.PowerOnState : Prop :=
  State.reset.phaseOut = 0 ∧ State.reset.causeOut = 0 ∧ State.reset.cmdReady = true ∧ State.reset.rspValid = false

/-- In every state whose next event is a reset, whatever the phase and also in the middle of a fold, one step answers a
next state with PHASE = 0 and CAUSE = 0 and CMD_READY asserted (R300, R311); that a response still pending is taken
away (log entry 8, DESIGN CHOICE) and that the later events are still to come (log entry 7, DESIGN CHOICE) are the
model's choice. (derived: 70_reset_and_hazards.md section 1 (Reset), R300, 70_reset_and_hazards.md section 3, R311,
notes/assumptions/7.md (DESIGN CHOICE), notes/assumptions/8.md (DESIGN CHOICE)) -/
def Obligations.ResetEventFromAnyState : Prop :=
  ∀ (s : State) (rest : List PortEvent), s.input = .reset :: rest →
    ∃ t, step s = .next t ∧ t.phaseOut = 0 ∧ t.causeOut = 0 ∧ t.cmdReady = true ∧ t.rsp = none ∧ t.input = rest

/-- State.reset satisfies BoundaryInv, the invariant that BoundaryInvariantKept says every step keeps. Its conjunct bufWf
is the model's choice, not the spec's: the spec leaves the buffer unspecified after reset, and the model holds the
empty canonical list there (log entries 1 and 4, DESIGN CHOICE). (derived: 10_state.md section 9 (Invariants at
command boundaries), notes/assumptions/1.md (DESIGN CHOICE), notes/assumptions/4.md (DESIGN CHOICE)) -/
def Obligations.ResetMeetsBoundaryInvariant : Prop :=
  BoundaryInv State.reset

/-- When the sequencer is idle and the next event is a command word that decodes to i, step is exec of i on the state with
that word taken from the events; a reserved word is given to the reserved-word entry instead. (derived: 30_encoding.md
section 1 (The host interface), 40_host_commands.md section 1 (Dispatch)) -/
def Obligations.StepRunsDecodedCommand : Prop :=
  ∀ (s : State) (w : BitVec 10) (rest : List PortEvent), s.seq = .idle → s.input = .command w :: rest →
    (∀ i, decodeCommand w = .ok i → step s = exec i { s with input := rest }) ∧
    (∀ e, decodeCommand w = .error e → step s = execReserved { s with input := rest })

/-- When a fold is in progress and no reset is asserted, step is exec of the instruction STEP selects followed by
stepDone; before step 63 that leaves STEP one higher and changes nothing else that exec left, and no event is taken
from the port. That one machine step is one row of the schedule is the model's choice (log entry 5, DESIGN CHOICE),
which R5 allows: a model may implement a command as a sequence of micro-steps; the order of the rows and that no word
is accepted meanwhile are the spec's. (derived: 42_compression.md section 1 (FOLD), 30_encoding.md section 1 (The host
interface), 41_padding_length.md section 6 (Control flow), 00_scope.md section 3 (Scope), the level of the
specification, R5, notes/assumptions/5.md (DESIGN CHOICE)) -/
def Obligations.StepRunsSelectedRow : Prop :=
  ∀ s : State, s.seq ≠ .idle → NoReset s →
    step s = andThen (exec (stepInstr s.stepReg) s) State.stepDone ∧
    (s.stepReg ≠ 63 → ∀ t, exec (stepInstr s.stepReg) s = .next t → t.stepDone = { t with stepReg := s.stepReg + 1 }) ∧
    (∀ t, step s = .next t → t.input = s.input)

/-- When the sequencer is idle and no event is presented, step answers the same state: between commands the engine is idle
and keeps all state (R285). That the response of the last command stays in it meanwhile is the model's choice (log
entry 8, DESIGN CHOICE); the spec says only that RSP_VALID is asserted once. (derived: 60_exceptions.md section 4
(Platform items), R285, notes/assumptions/8.md (DESIGN CHOICE)) -/
def Obligations.IdleEngineKeepsState : Prop :=
  ∀ s : State, s.seq = .idle → s.input = [] → step s = .next s

/-- A 10-bit word has no instruction exactly when it lies in 0x001..0x0FF, 0x201..0x2FF or 0x310..0x3FF; and when an idle
engine that is not in FAULT accepts such a word the next state differs from the old one only in the event taken, CAUSE
= 5, PHASE = FAULT and no response. (stated: R94) -/
def Obligations.ReservedWordsExactly : Prop :=
  (∀ w : BitVec 10, (∃ e, decodeCommand w = .error e) ↔
    (0x001 ≤ w.toNat ∧ w.toNat ≤ 0x0FF) ∨ (0x201 ≤ w.toNat ∧ w.toNat ≤ 0x2FF) ∨ (0x310 ≤ w.toNat ∧ w.toNat ≤ 0x3FF)) ∧
  (∀ (s : State) (w : BitVec 10) (rest : List PortEvent) (e : ReservedWord),
    s.seq = .idle → s.input = .command w :: rest → s.phase ≠ .fault → decodeCommand w = .error e →
    step s = .next { s with input := rest, cause := 5, phase := .fault, rsp := none })

/-- 0x000 decodes to INIT and 0x200 to FINAL; 0x100 + data decodes to WRITE of data for every byte; 0x300 + idx decodes to
READ of idx for every index 0..15. (stated: R93) -/
def Obligations.OperandsUsedAsTheyStand : Prop :=
  decodeCommand 0x000 = .ok .init ∧ decodeCommand 0x200 = .ok .final ∧
  (∀ data : Byte, decodeCommand (BitVec.ofNat 10 (0x100 + data.toNat)) = .ok (.write data)) ∧
  (∀ idx : BitVec 4, decodeCommand (BitVec.ofNat 10 (0x300 + idx.toNat)) = .ok (.read idx))

/-- The words of section C9 decode as listed: 000 INIT, 100 WRITE 0x00, 161 WRITE 0x61, 1ff WRITE 0xff, 200 FINAL, 300
READ 0, 30f READ 15; 001, 0ff, 201, 2ff, 310, 3ff are reserved; and STEP = 17 selects S17, STEP = 63 selects S63.
(derived: 95_test_vectors.md section C9 (Decode), 30_encoding.md section 3 (Step-schedule rows)) -/
def Obligations.DecodeListedWords : Prop :=
  decode (.command 0b0000000000) = .ok .init ∧ decode (.command 0b0100000000) = .ok (.write 0x00) ∧
  decode (.command 0b0101100001) = .ok (.write 0x61) ∧ decode (.command 0b0111111111) = .ok (.write 0xff) ∧
  decode (.command 0b1000000000) = .ok .final ∧ decode (.command 0b1100000000) = .ok (.read 0) ∧
  decode (.command 0b1100001111) = .ok (.read 15) ∧
  decode (.command 0x001) = .error .initOperand ∧ decode (.command 0x0ff) = .error .initOperand ∧
  decode (.command 0x201) = .error .finalOperand ∧ decode (.command 0x2ff) = .error .finalOperand ∧
  decode (.command 0x310) = .error .readIndex ∧ decode (.command 0x3ff) = .error .readIndex ∧
  decode (.row 0b010001) = .ok .s17 ∧ decode (.row 0b111111) = .ok .s63

/-- For every well-formed instruction i, at every value of its operand, decode (encode i) is i: no bit of an encoding is
dropped. (derived: 30_encoding.md section 2 (Command words), 30_encoding.md section 3 (Step-schedule rows)) -/
def Obligations.DecodeEncodeAgree : Prop :=
  ∀ i : Instr, i.wellFormed = true → decode (encode i) = .ok i

/-- Whenever a command word or a STEP value decodes to an instruction, encoding that instruction gives the same word or
value: no word aliases another. (derived: 30_encoding.md section 2 (Command words), 30_encoding.md section 3 (Step-
schedule rows)) -/
def Obligations.EncodeDecodeAgree : Prop :=
  ∀ (sel : Selector) (i : Instr), decode sel = .ok i → encode i = sel

/-- For every selector: it decodes to some instruction with the opcode-table row of i exactly when that row's match and
mask select it; so two rows that select the same selector are the same row. (derived: 30_encoding.md section 2
(Command words), the opcode map and its match and mask columns) -/
def Obligations.TableRowSelectsDecode : Prop :=
  (∀ (i : Instr) (sel : Selector), (tableRow i).selects sel = true ↔ ∃ j, decode sel = .ok j ∧ tableRow j = tableRow i) ∧
  (∀ (i j : Instr) (sel : Selector), (tableRow i).selects sel = true → (tableRow j).selects sel = true →
    tableRow i = tableRow j)

/-- WRITES of no bytes is no word; WRITES of two chunks one after the other is WRITES of their concatenation; WRITES of a
byte and more is the word of that WRITE and the rest; DIGEST is READ 0 to READ 15 in order; HASH is INIT, WRITES,
FINAL, DIGEST, of n + 18 words. (stated: R101, R102, R104) -/
def Obligations.PseudoInstructionsExpand : Prop :=
  writesWords [] = [] ∧ (∀ x y : List Byte, writesWords (x ++ y) = writesWords x ++ writesWords y) ∧
  (∀ (v : Byte) (l : List Byte), (writesWords (v :: l)).map decodeCommand
    = .ok (.write v) :: (writesWords l).map decodeCommand) ∧
  digestWords.map decodeCommand = (List.range 16).map (fun i => .ok (.read (BitVec.ofNat 4 i))) ∧
  (∀ l : List Byte, hashWords l = [0x000] ++ writesWords l ++ [0x200] ++ digestWords ∧ (hashWords l).length = l.length + 18)

/-- The word 0x000 is INIT. In UNINIT, ABSORB and DONE, INIT answers the next state with W0..W3 the four constants, NBLK =
CNT = LENLO = LENHI = 0, every buffer byte 0x00, PHASE = ABSORB and no response; CAUSE, the working registers, STEP
and everything else are unchanged; and INIT again leaves that state as it is. In FAULT it is ignored: nothing changes
and there is no response. (stated: R122) -/
def Obligations.InitGivesFreshState : Prop :=
  decodeCommand 0x000 = .ok .init ∧
  (∀ s : State, s.phase ≠ .fault →
    ∃ t, exec .init s = .next t ∧
      t = { s with acc := ⟨0x67452301, 0xefcdab89, 0x98badcfe, 0x10325476⟩, nblk := 0, cnt := 0, lenlo := 0, lenhi := 0,
                   buf := t.buf, phase := .absorb, rsp := none } ∧
      (∀ i, bufRead t.buf i = 0) ∧ exec .init t = .next t) ∧
  (∀ s : State, s.phase = .fault → exec .init s = .next { s with rsp := none })

/-- The word 0x100 + data is WRITE data. In ABSORB with CNT at most 63, WRITE answers a next state whose buffer holds the
byte at address CNT and every other byte as before. If CNT was below 63, CNT is one higher and nothing else changes
but the response, which is absent. If CNT was 63, the 64 bytes are folded into the accumulators, NBLK is one higher
modulo 2^32, CNT is 0, the working registers and STEP hold free values, and everything else is unchanged. In UNINIT it
raises cause 1, in DONE cause 2, and in FAULT it is ignored. (stated: R123) -/
def Obligations.WriteAppendsByte : Prop :=
  (∀ data : Byte, decodeCommand (BitVec.ofNat 10 (0x100 + data.toNat)) = .ok (.write data)) ∧
  (∀ (s : State) (data : Byte), s.phase = .absorb → bufWf s.buf → s.cnt.toNat ≤ 63 →
    ∃ t, exec (.write data) s = .next t ∧ bufRead t.buf s.cnt.toNat = data ∧
      (∀ a, a ≠ s.cnt.toNat → bufRead t.buf a = bufRead s.buf a) ∧
      (s.cnt.toNat < 63 → t = { s with buf := t.buf, cnt := s.cnt + 1, rsp := none }) ∧
      (s.cnt.toNat = 63 →
        t = { s with buf := t.buf, acc := specFold s.acc (bufBytes s.buf 63 ++ [data]), nblk := s.nblk + 1, cnt := 0,
                     rsp := none, work := t.work, stepReg := t.stepReg, folds := t.folds })) ∧
  (∀ (s : State) (data : Byte),
    (s.phase = .uninit → exec (.write data) s = .next { s with cause := 1, phase := .fault, rsp := none }) ∧
    (s.phase = .done → exec (.write data) s = .next { s with cause := 2, phase := .fault, rsp := none }) ∧
    (s.phase = .fault → exec (.write data) s = .next { s with rsp := none }))

/-- In ABSORB with CNT = c at most 55, FINAL answers a next state: the length latch holds (NBLK * 64 + c) * 8; the
accumulators are folded over the block of the c residual bytes, 0x80, 55 - c zeros and the 8-byte length field; NBLK
is one higher; CNT = 0; PHASE = DONE; no response; buffer bytes 0..15 are the digest bytes of the new accumulators and
bytes 16..63 those of the padded block; CAUSE and the rest are unchanged. (derived: 40_host_commands.md section 4
(FINAL), 41_padding_length.md sections 2 to 5, 20_memory.md section 2 (Byte order)) -/
def Obligations.FinalOneBlock : Prop :=
  ∀ s : State, s.phase = .absorb → bufWf s.buf → s.cnt.toNat ≤ 55 →
    ∃ t, exec .final s = .next t ∧
      (let len := (s.nblk.toNat * 64 + s.cnt.toNat) * 8
       let blk := bufBytes s.buf s.cnt.toNat ++ 0x80 :: (List.replicate (55 - s.cnt.toNat) 0 ++ lengthField len)
       t = { s with acc := specFold s.acc blk, nblk := s.nblk + 1, cnt := 0, phase := .done, rsp := none, buf := t.buf,
                    lenlo := BitVec.ofNat 32 len, lenhi := BitVec.ofNat 32 (len / 2 ^ 32),
                    work := t.work, stepReg := t.stepReg, folds := t.folds } ∧
       (∀ a, a < 16 → bufRead t.buf a = digestByte t.acc a) ∧
       (∀ a, 16 ≤ a → a < 64 → bufRead t.buf a = blk.getD a 0) ∧
       (∀ a, 64 ≤ a → bufRead t.buf a = bufRead s.buf a))

/-- In ABSORB with CNT = c from 56 to 63, FINAL answers a next state: the accumulators are folded over the block of the c
residual bytes, 0x80 and 63 - c zeros, and then over the block of 56 zeros and the 8-byte length field of (NBLK * 64 +
c) * 8, which the length latch holds; NBLK is two higher; CNT = 0; PHASE = DONE; no response; bytes 0..15 are the
digest bytes and bytes 16..63 those of the second block; CAUSE and the rest are unchanged. (derived:
40_host_commands.md section 4 (FINAL), 41_padding_length.md sections 2 to 5, 20_memory.md section 2 (Byte order)) -/
def Obligations.FinalTwoBlocks : Prop :=
  ∀ s : State, s.phase = .absorb → bufWf s.buf → 56 ≤ s.cnt.toNat → s.cnt.toNat ≤ 63 →
    ∃ t, exec .final s = .next t ∧
      (let len := (s.nblk.toNat * 64 + s.cnt.toNat) * 8
       let blk1 := bufBytes s.buf s.cnt.toNat ++ 0x80 :: List.replicate (63 - s.cnt.toNat) 0
       let blk2 := List.replicate 56 0 ++ lengthField len
       t = { s with acc := specFold (specFold s.acc blk1) blk2, nblk := s.nblk + 2, cnt := 0, phase := .done, rsp := none,
                    buf := t.buf, lenlo := BitVec.ofNat 32 len, lenhi := BitVec.ofNat 32 (len / 2 ^ 32),
                    work := t.work, stepReg := t.stepReg, folds := t.folds } ∧
       (∀ a, a < 16 → bufRead t.buf a = digestByte t.acc a) ∧
       (∀ a, 16 ≤ a → a < 64 → bufRead t.buf a = blk2.getD a 0) ∧
       (∀ a, 64 ≤ a → bufRead t.buf a = bufRead s.buf a))

/-- In ABSORB with CNT = 64 (never at a command boundary), FINAL answers what FINAL answers from the flushed state, in
which the 64 bytes are folded, NBLK is one higher and CNT is 0; and it does answer a next state, in DONE. (derived:
41_padding_length.md section 7 (What padding guarantees), the flush at the start of FINAL) -/
def Obligations.FinalFromFullBuffer : Prop :=
  ∀ s : State, s.phase = .absorb → s.cnt = 64 →
    exec .final s = exec .final s.flush ∧
    s.flush.acc = specFold s.acc (bufBytes s.buf 64) ∧ s.flush.nblk = s.nblk + 1 ∧ s.flush.cnt = 0 ∧
    ∃ t, exec .final s = .next t ∧ t.phase = .done

/-- In ABSORB, WRITE with CNT above 63 and FINAL with CNT above 64 stop with the fault that names the address: no access
falls outside the buffer. No state that meets BoundaryInv is such a state: in ABSORB it has CNT at most 63. The fault
is the model's own form of an access the spec excludes (log entry 3, DESIGN CHOICE). (derived: 20_memory.md section 1
(Address spaces), 10_state.md section 6 (CNT), 10_state.md section 9 (Invariants at command boundaries), INV2,
notes/assumptions/3.md (DESIGN CHOICE)) -/
def Obligations.CountOutsideBufferStops : Prop :=
  (∀ (s : State) (data : Byte), s.phase = .absorb → 64 ≤ s.cnt.toNat →
    exec (.write data) s = .fault (.bufferAddress s.cnt.toNat)) ∧
  (∀ s : State, s.phase = .absorb → 65 ≤ s.cnt.toNat → exec .final s = .fault (.bufferAddress s.cnt.toNat)) ∧
  (∀ s : State, BoundaryInv s → ¬ (s.phase = .absorb ∧ 64 ≤ s.cnt.toNat))

/-- The word 0x300 + idx is READ idx. In DONE, READ idx answers the same state with the response BUF[idx]; in a boundary
state that byte is digest byte idx of the accumulators. In UNINIT it raises cause 1, in ABSORB cause 4, and in FAULT
it is ignored; none of these responds. (stated: R126) -/
def Obligations.ReadRespondsDigestByte : Prop :=
  (∀ idx : BitVec 4, decodeCommand (BitVec.ofNat 10 (0x300 + idx.toNat)) = .ok (.read idx)) ∧
  ∀ (s : State) (idx : BitVec 4),
    (s.phase = .done → exec (.read idx) s = .next { s with rsp := some (bufRead s.buf idx.toNat) }) ∧
    (s.phase = .done → BoundaryInv s → bufRead s.buf idx.toNat = digestByte s.acc idx.toNat) ∧
    (s.phase = .uninit → exec (.read idx) s = .next { s with cause := 1, phase := .fault, rsp := none }) ∧
    (s.phase = .absorb → exec (.read idx) s = .next { s with cause := 4, phase := .fault, rsp := none }) ∧
    (s.phase = .fault → exec (.read idx) s = .next { s with rsp := none })

/-- WRITE, FINAL and READ in UNINIT raise cause 1, WRITE in DONE cause 2, FINAL in DONE cause 3, READ in ABSORB cause 4,
and a reserved word in any of these phases cause 5: the next state differs from the old only in CAUSE, PHASE = FAULT
and the absent response. (stated: R274) -/
def Obligations.IllegalCommandRaisesItsCause : Prop :=
  ∀ (s : State) (data : Byte) (idx : BitVec 4),
    (s.phase = .uninit →
      exec (.write data) s = .next { s with cause := 1, phase := .fault, rsp := none } ∧
      exec .final s = .next { s with cause := 1, phase := .fault, rsp := none } ∧
      exec (.read idx) s = .next { s with cause := 1, phase := .fault, rsp := none }) ∧
    (s.phase = .done →
      exec (.write data) s = .next { s with cause := 2, phase := .fault, rsp := none } ∧
      exec .final s = .next { s with cause := 3, phase := .fault, rsp := none }) ∧
    (s.phase = .absorb → exec (.read idx) s = .next { s with cause := 4, phase := .fault, rsp := none }) ∧
    (s.phase ≠ .fault → execReserved s = .next { s with cause := 5, phase := .fault, rsp := none })

/-- When an idle engine in FAULT accepts any word at all, the next state is the old one with the event taken and no
response: CAUSE keeps its code and nothing else changes. (stated: R276) -/
def Obligations.FaultIgnoresEveryWord : Prop :=
  ∀ (s : State) (w : BitVec 10) (rest : List PortEvent), s.seq = .idle → s.phase = .fault →
    s.input = .command w :: rest → step s = .next { s with input := rest, rsp := none }

/-- If a step changes PHASE then: it is UNINIT after a reset event; or ABSORB after an idle engine that was not in FAULT
accepted the INIT word; or DONE after an idle engine in ABSORB accepted the FINAL word, or at step 63 of a FINAL's
last fold (log entry 5, DESIGN CHOICE: the model's own sequencer); or FAULT after an idle engine accepted a word that
is reserved or illegal in its phase, with violationCause (the table of R121 as cause codes) giving the code c, and the
next state differs from the old one only in the event taken, CAUSE = c, PHASE and no response. (derived: 10_state.md
section 5 (Flags), 40_host_commands.md section 1 (Dispatch), 60_exceptions.md section 1 (Exceptions),
notes/assumptions/5.md (DESIGN CHOICE)) -/
def Obligations.PhaseMovesOnlyAsListed : Prop :=
  ∀ s t : State, step s = .next t → t.phase ≠ s.phase →
    (t.phase = .uninit ∧ ∃ rest, s.input = .reset :: rest) ∨
    (t.phase = .absorb ∧ s.seq = .idle ∧ s.phase ≠ .fault ∧ ∃ rest, s.input = .command 0x000 :: rest) ∨
    (t.phase = .done ∧ s.seq = .idle ∧ s.phase = .absorb ∧ ∃ rest, s.input = .command 0x200 :: rest) ∨
    (t.phase = .done ∧ s.seq = .foldToSerialize ∧ s.stepReg = 63) ∨
    (s.seq = .idle ∧ ∃ w rest c, s.input = .command w :: rest ∧ violationCause s.phase w = some c ∧
      t = { s with input := rest, cause := c, phase := .fault, rsp := none })

/-- If a step from FAULT at a command boundary is not a reset event, the next state is in FAULT with the same CAUSE,
accumulators, counters, length latch and buffer; and in any state, a step that changes CAUSE is a reset event or
enters FAULT from another phase with a code from 1 to 5. (derived: 60_exceptions.md section 1 (Exceptions),
10_state.md section 6 (CAUSE)) -/
def Obligations.OnlyResetLeavesFault : Prop :=
  (∀ s t : State, step s = .next t → s.seq = .idle → s.phase = .fault → NoReset s →
    t.phase = .fault ∧ t.cause = s.cause ∧ t.acc = s.acc ∧ t.nblk = s.nblk ∧ t.cnt = s.cnt ∧ t.lenlo = s.lenlo ∧
    t.lenhi = s.lenhi ∧ t.buf = s.buf) ∧
  (∀ s t : State, step s = .next t → t.cause ≠ s.cause →
    (∃ rest, s.input = .reset :: rest) ∨
    (s.phase ≠ .fault ∧ t.phase = .fault ∧ 1 ≤ t.cause.toNat ∧ t.cause.toNat ≤ 5))

/-- From every state that meets BoundaryInv (idle sequencer; canonical buffer; CNT at most 63 in ABSORB; the digest in
bytes 0..15 and CNT = 0 in DONE; FAULT exactly when CAUSE is not 0; CAUSE at most 5; a response only in DONE and then
a digest byte), every step, whatever the event, gives a state that meets it. The conjunct bufWf is the model's own
form of the buffer (log entries 1 and 4, DESIGN CHOICE), and how long a response stays is the model's choice (log
entry 8, DESIGN CHOICE; that it is a digest byte rests on R96 and R126); the other conjuncts are the spec's. (derived:
10_state.md section 9 (Invariants at command boundaries), 60_exceptions.md section 1 (Exceptions), 30_encoding.md
section 2 (Command words), R96, notes/assumptions/1.md (DESIGN CHOICE), notes/assumptions/4.md (DESIGN CHOICE),
notes/assumptions/8.md (DESIGN CHOICE)) -/
def Obligations.BoundaryInvariantKept : Prop :=
  ∀ s t : State, BoundaryInv s → step s = .next t → BoundaryInv t

/-- For every state whose buffer has rising addresses below 64 and lists no 0x00, every next state has such a buffer.
(derived: 20_memory.md section 1 (Address spaces), notes/assumptions/4.md (DESIGN CHOICE)) -/
def Obligations.BufferStaysCanonical : Prop :=
  ∀ s t : State, bufWf s.buf → step s = .next t → bufWf t.buf

/-- In every state that meets BoundaryInv, and in every state in which a fold is in progress, step answers a next state:
no event, command, operand or data stops the engine. (derived: 40_host_commands.md section 6 (Properties of the
commands), 70_reset_and_hazards.md section 4 (Timing)) -/
def Obligations.EngineNeverStops : Prop :=
  ∀ s : State, BoundaryInv s ∨ s.seq ≠ .idle → ∃ t, step s = .next t

/-- For every state, FLUSH leaves the accumulators folded over the 64 bytes of the buffer, NBLK = NBLK + 1 modulo 2^32 and
CNT = 0; the buffer, PHASE, CAUSE and the length latch are unchanged. (stated: R150) -/
def Obligations.FlushFoldsCountsAndEmpties : Prop :=
  ∀ s : State, s.flush.acc = specFold s.acc (bufBytes s.buf 64) ∧ s.flush.nblk.toNat = (s.nblk.toNat + 1) % 2 ^ 32 ∧
    s.flush.cnt = 0 ∧ s.flush.buf = s.buf ∧ s.flush.phase = s.phase ∧ s.flush.cause = s.cause ∧
    s.flush.lenlo = s.lenlo ∧ s.flush.lenhi = s.lenhi ∧ s.flush.rsp = s.rsp ∧ s.flush.seq = s.seq ∧ s.flush.input = s.input

/-- For every NBLK and every CNT from 0 to 64, the two words of LENGTH are the low and high word of (NBLK * 64 + CNT) * 8,
with no reduction; the low three bits of the low word are 0; and for CNT at most 63 the high word is below 0x200.
(stated: R153) -/
def Obligations.LengthIsExact : Prop :=
  ∀ (nblk : Word) (cnt : BitVec 7), cnt.toNat ≤ 64 →
    (lengthWords nblk cnt).2.toNat * 2 ^ 32 + (lengthWords nblk cnt).1.toNat = (nblk.toNat * 64 + cnt.toNat) * 8 ∧
    (lengthWords nblk cnt).1.toNat % 8 = 0 ∧ (cnt.toNat ≤ 63 → (lengthWords nblk cnt).2.toNat < 0x200)

/-- After PLACELEN, byte 56 + k is bits 8k+7..8k of LENLO and byte 60 + k those of LENHI for k = 0..3; message word 14 is
LENLO and message word 15 is LENHI; every other byte is as before; and this is the one 8-byte write of LENHI * 2^32 +
LENLO at 56. (stated: R78) -/
def Obligations.LengthFieldLayout : Prop :=
  ∀ s : State, bufWf s.buf →
    (∀ k, k < 4 → bufRead s.placeLen.buf (56 + k) = s.lenlo.extractLsb' (8 * k) 8 ∧
      bufRead s.placeLen.buf (60 + k) = s.lenhi.extractLsb' (8 * k) 8) ∧
    messageWord s.placeLen.buf 14 = s.lenlo ∧ messageWord s.placeLen.buf 15 = s.lenhi ∧
    (∀ a, a < 56 ∨ 64 ≤ a → bufRead s.placeLen.buf a = bufRead s.buf a) ∧
    (∀ a, bufRead s.placeLen.buf a = bufRead (memWrite s.buf 56 8 (s.lenhi.toNat * 2 ^ 32 + s.lenlo.toNat)) a)

/-- After SERIALIZE, byte 4j + k is bits 8k+7..8k of Wj for j, k = 0..3, and every byte from 16 on is as before. (derived:
20_memory.md section 2 (Byte order), the digest layout, 41_padding_length.md section 5 (SERIALIZE)) -/
def Obligations.DigestLayout : Prop :=
  ∀ s : State, bufWf s.buf →
    (∀ k, k < 4 →
      bufRead s.serialize.buf (0 + k) = s.acc.w0.extractLsb' (8 * k) 8 ∧
      bufRead s.serialize.buf (4 + k) = s.acc.w1.extractLsb' (8 * k) 8 ∧
      bufRead s.serialize.buf (8 + k) = s.acc.w2.extractLsb' (8 * k) 8 ∧
      bufRead s.serialize.buf (12 + k) = s.acc.w3.extractLsb' (8 * k) 8) ∧
    (∀ a, 16 ≤ a → bufRead s.serialize.buf a = bufRead s.buf a)

/-- For every canonical buffer, every word index below 16 and byte position below 4: after a write of v at 4j + k, bits
8k+7..8k of message word j are v, and the bits of the other byte positions are as before. (derived: 20_memory.md
section 2 (Byte order)) -/
def Obligations.MessageWordsAreLittleEndian : Prop :=
  ∀ (m : Buffer) (j k : Nat) (v : Byte), bufWf m → j < 16 → k < 4 →
    (messageWord (bufWrite m (4 * j + k) v) j).extractLsb' (8 * k) 8 = v ∧
    ∀ k', k' < 4 → k' ≠ k →
      (messageWord (bufWrite m (4 * j + k) v) j).extractLsb' (8 * k') 8 = (messageWord m j).extractLsb' (8 * k') 8

/-- For every bit position: F1 selects c where b is 1 and d where it is 0; F2 selects b where d is 1 and c where it is 0;
F3 is the parity of b, c and d; F4 is c xor (b or not d). (stated: R188, R189, R190, R191) -/
def Obligations.RoundFunctionsBitByBit : Prop :=
  ∀ (b c d : Word) (n : Nat), n < 32 →
    (roundFn .r1 b c d).getLsbD n = (if b.getLsbD n then c.getLsbD n else d.getLsbD n) ∧
    (roundFn .r2 b c d).getLsbD n = (if d.getLsbD n then b.getLsbD n else c.getLsbD n) ∧
    (roundFn .r3 b c d).getLsbD n = (b.getLsbD n ^^ c.getLsbD n ^^ d.getLsbD n) ∧
    (roundFn .r4 b c d).getLsbD n = (c.getLsbD n ^^ (b.getLsbD n || !d.getLsbD n))

/-- F1(b, c, d) = (b and c) or (not b and d), and F2(b, c, d) = (b and d) or (c and not d), for all words. (stated: R195) -/
def Obligations.RoundFunctionOtherForms : Prop :=
  ∀ b c d : Word,
    roundFn .r1 b c d = or32 (and32 b c) (and32 (not32 b) d) ∧
    roundFn .r2 b c d = or32 (and32 b d) (and32 c (not32 d))

/-- For the 64 rows of the schedule: every rotation amount is from 4 to 23; in each round every message word 0..15 is
used; in round 1 row t uses word t; no two rows have the same constant. (stated: R199) -/
def Obligations.ScheduleTableProperties : Prop :=
  (∀ i : Fin 64, 4 ≤ (scheduleRow (BitVec.ofNat 6 i)).s ∧ (scheduleRow (BitVec.ofNat 6 i)).s ≤ 23) ∧
  (∀ (r : Fin 4) (g : Fin 16), ∃ t : Fin 16, (scheduleRow (BitVec.ofNat 6 (16 * r + t))).g = g) ∧
  (∀ t : Fin 16, (scheduleRow (BitVec.ofNat 6 t)).g = t) ∧
  (∀ i j : Fin 64, (scheduleRow (BitVec.ofNat 6 i)).k = (scheduleRow (BitVec.ofNat 6 j)).k → i = j)

/-- For every value i of STEP and every state, the instruction that STEP selects answers the next state in which (a, b, c,
d) is (d, next, b, c), with next from K[i], S[i], G[i] of the tables and the round function of round floor(i/16) + 1,
and nothing else is changed; the instruction is the one the opcode table names for i. (stated: R185, R186) -/
def Obligations.EveryStepFollowsTheTemplate : Prop :=
  ∀ (i : BitVec 6) (s : State),
    exec (stepInstr i) s
      = .next { s with work := specStep i.toNat (specWord s.buf (tableG i.toNat)) s.work } ∧
    encode (stepInstr i) = .row i

/-- For each step i from 0 to 7, with the message-word index, rotation amount and constant of its rule: STEP = i selects
it; from every state it answers the next state in which only the working registers differ, (a, b, c, d) <- (d, next,
b, c) with round function F1; and in the physical view exactly the one register of its rule is overwritten. (stated:
R200, R201, R202, R203, R204, R205, R206, R207) -/
def Obligations.StepsS00ToS07 : Prop :=
  StepRule 0 .s00 specF1 0 7 0xd76aa478 ∧
  StepRule 1 .s01 specF1 1 12 0xe8c7b756 ∧
  StepRule 2 .s02 specF1 2 17 0x242070db ∧
  StepRule 3 .s03 specF1 3 22 0xc1bdceee ∧
  StepRule 4 .s04 specF1 4 7 0xf57c0faf ∧
  StepRule 5 .s05 specF1 5 12 0x4787c62a ∧
  StepRule 6 .s06 specF1 6 17 0xa8304613 ∧
  StepRule 7 .s07 specF1 7 22 0xfd469501

/-- For each step i from 8 to 15, with the message-word index, rotation amount and constant of its rule: STEP = i selects
it; from every state it answers the next state in which only the working registers differ, (a, b, c, d) <- (d, next,
b, c) with round function F1; and in the physical view exactly the one register of its rule is overwritten. (stated:
R208, R209, R210, R211, R212, R213, R214, R215) -/
def Obligations.StepsS08ToS15 : Prop :=
  StepRule 8 .s08 specF1 8 7 0x698098d8 ∧
  StepRule 9 .s09 specF1 9 12 0x8b44f7af ∧
  StepRule 10 .s10 specF1 10 17 0xffff5bb1 ∧
  StepRule 11 .s11 specF1 11 22 0x895cd7be ∧
  StepRule 12 .s12 specF1 12 7 0x6b901122 ∧
  StepRule 13 .s13 specF1 13 12 0xfd987193 ∧
  StepRule 14 .s14 specF1 14 17 0xa679438e ∧
  StepRule 15 .s15 specF1 15 22 0x49b40821

/-- For each step i from 16 to 23, with the message-word index, rotation amount and constant of its rule: STEP = i selects
it; from every state it answers the next state in which only the working registers differ, (a, b, c, d) <- (d, next,
b, c) with round function F2; and in the physical view exactly the one register of its rule is overwritten. (stated:
R216, R217, R218, R219, R220, R221, R222, R223) -/
def Obligations.StepsS16ToS23 : Prop :=
  StepRule 16 .s16 specF2 1 5 0xf61e2562 ∧
  StepRule 17 .s17 specF2 6 9 0xc040b340 ∧
  StepRule 18 .s18 specF2 11 14 0x265e5a51 ∧
  StepRule 19 .s19 specF2 0 20 0xe9b6c7aa ∧
  StepRule 20 .s20 specF2 5 5 0xd62f105d ∧
  StepRule 21 .s21 specF2 10 9 0x02441453 ∧
  StepRule 22 .s22 specF2 15 14 0xd8a1e681 ∧
  StepRule 23 .s23 specF2 4 20 0xe7d3fbc8

/-- For each step i from 24 to 31, with the message-word index, rotation amount and constant of its rule: STEP = i selects
it; from every state it answers the next state in which only the working registers differ, (a, b, c, d) <- (d, next,
b, c) with round function F2; and in the physical view exactly the one register of its rule is overwritten. (stated:
R224, R225, R226, R227, R228, R229, R230, R231) -/
def Obligations.StepsS24ToS31 : Prop :=
  StepRule 24 .s24 specF2 9 5 0x21e1cde6 ∧
  StepRule 25 .s25 specF2 14 9 0xc33707d6 ∧
  StepRule 26 .s26 specF2 3 14 0xf4d50d87 ∧
  StepRule 27 .s27 specF2 8 20 0x455a14ed ∧
  StepRule 28 .s28 specF2 13 5 0xa9e3e905 ∧
  StepRule 29 .s29 specF2 2 9 0xfcefa3f8 ∧
  StepRule 30 .s30 specF2 7 14 0x676f02d9 ∧
  StepRule 31 .s31 specF2 12 20 0x8d2a4c8a

/-- For each step i from 32 to 39, with the message-word index, rotation amount and constant of its rule: STEP = i selects
it; from every state it answers the next state in which only the working registers differ, (a, b, c, d) <- (d, next,
b, c) with round function F3; and in the physical view exactly the one register of its rule is overwritten. (stated:
R232, R233, R234, R235, R236, R237, R238, R239) -/
def Obligations.StepsS32ToS39 : Prop :=
  StepRule 32 .s32 specF3 5 4 0xfffa3942 ∧
  StepRule 33 .s33 specF3 8 11 0x8771f681 ∧
  StepRule 34 .s34 specF3 11 16 0x6d9d6122 ∧
  StepRule 35 .s35 specF3 14 23 0xfde5380c ∧
  StepRule 36 .s36 specF3 1 4 0xa4beea44 ∧
  StepRule 37 .s37 specF3 4 11 0x4bdecfa9 ∧
  StepRule 38 .s38 specF3 7 16 0xf6bb4b60 ∧
  StepRule 39 .s39 specF3 10 23 0xbebfbc70

/-- For each step i from 40 to 47, with the message-word index, rotation amount and constant of its rule: STEP = i selects
it; from every state it answers the next state in which only the working registers differ, (a, b, c, d) <- (d, next,
b, c) with round function F3; and in the physical view exactly the one register of its rule is overwritten. (stated:
R240, R241, R242, R243, R244, R245, R246, R247) -/
def Obligations.StepsS40ToS47 : Prop :=
  StepRule 40 .s40 specF3 13 4 0x289b7ec6 ∧
  StepRule 41 .s41 specF3 0 11 0xeaa127fa ∧
  StepRule 42 .s42 specF3 3 16 0xd4ef3085 ∧
  StepRule 43 .s43 specF3 6 23 0x04881d05 ∧
  StepRule 44 .s44 specF3 9 4 0xd9d4d039 ∧
  StepRule 45 .s45 specF3 12 11 0xe6db99e5 ∧
  StepRule 46 .s46 specF3 15 16 0x1fa27cf8 ∧
  StepRule 47 .s47 specF3 2 23 0xc4ac5665

/-- For each step i from 48 to 55, with the message-word index, rotation amount and constant of its rule: STEP = i selects
it; from every state it answers the next state in which only the working registers differ, (a, b, c, d) <- (d, next,
b, c) with round function F4; and in the physical view exactly the one register of its rule is overwritten. (stated:
R248, R249, R250, R251, R252, R253, R254, R255) -/
def Obligations.StepsS48ToS55 : Prop :=
  StepRule 48 .s48 specF4 0 6 0xf4292244 ∧
  StepRule 49 .s49 specF4 7 10 0x432aff97 ∧
  StepRule 50 .s50 specF4 14 15 0xab9423a7 ∧
  StepRule 51 .s51 specF4 5 21 0xfc93a039 ∧
  StepRule 52 .s52 specF4 12 6 0x655b59c3 ∧
  StepRule 53 .s53 specF4 3 10 0x8f0ccc92 ∧
  StepRule 54 .s54 specF4 10 15 0xffeff47d ∧
  StepRule 55 .s55 specF4 1 21 0x85845dd1

/-- For each step i from 56 to 63, with the message-word index, rotation amount and constant of its rule: STEP = i selects
it; from every state it answers the next state in which only the working registers differ, (a, b, c, d) <- (d, next,
b, c) with round function F4; and in the physical view exactly the one register of its rule is overwritten. (stated:
R256, R257, R258, R259, R260, R261, R262, R263) -/
def Obligations.StepsS56ToS63 : Prop :=
  StepRule 56 .s56 specF4 8 6 0x6fa87e4f ∧
  StepRule 57 .s57 specF4 15 10 0xfe2ce6e0 ∧
  StepRule 58 .s58 specF4 6 15 0xa3014314 ∧
  StepRule 59 .s59 specF4 13 21 0x4e0811a1 ∧
  StepRule 60 .s60 specF4 4 6 0xf7537e82 ∧
  StepRule 61 .s61 specF4 11 10 0xbd3af235 ∧
  StepRule 62 .s62 specF4 2 15 0x2ad7d2bb ∧
  StepRule 63 .s63 specF4 9 21 0xeb86d391

/-- The instruction that STEP = i selects answers, from every state, a next state whose physical registers before step i +
1 are those before step i with the one register of the table overwritten by the table's formula. The physical
registers are loaded from W0..W3 in that order when a fold is entered, before step 64 the roles sit as before step 0,
and the add-back adds them into W0..W3 in that order. The same holds of the role view of a step for every step number,
message word, constant, rotation amount and round function. (stated: R187) -/
def Obligations.PhysicalRegistersView : Prop :=
  (∀ (i : BitVec 6) (s : State), ∃ t, exec (stepInstr i) s = .next t ∧
    physical (i.toNat + 1) t.work
      = physicalStep i.toNat (specF i.toNat) (specWord s.buf (tableG i.toNat)) (tableK.getD i.toNat 0) (tableS i.toNat)
          (physical i.toNat s.work)) ∧
  (∀ (s : State) (ret : Seq),
    physical 0 (s.enterFold ret).work = (s.acc.w0, s.acc.w1, s.acc.w2, s.acc.w3) ∧
    s.addBack.acc = ⟨s.acc.w0 + (physical 64 s.work).1, s.acc.w1 + (physical 64 s.work).2.1,
      s.acc.w2 + (physical 64 s.work).2.2.1, s.acc.w3 + (physical 64 s.work).2.2.2⟩) ∧
  (∀ (i : Nat) (f : Word → Word → Word → Word) (x k : Word) (n : Nat) (w : Working),
    physical (i + 1) (specRoles f x k n w) = physicalStep i f x k n (physical i w)) ∧
  (∀ w : Working, physical 64 w = physical 0 w ∧ physical 0 w = (w.a, w.b, w.c, w.d))

/-- From every state in which a fold has just been entered with a return recorded, and no reset is asserted, 64 steps of
the machine (S00 to S63, each run by step) reach the state that the command's own FLUSH gives, continued at the
recorded return. The micro-steps and their sequencer are the model's choice (log entry 5, DESIGN CHOICE), which R5
allows provided that the state at the command boundary is the rules' one. (derived: 42_compression.md section 1
(FOLD), 41_padding_length.md section 6 (Control flow), 00_scope.md section 3 (Scope), the level of the specification,
notes/assumptions/5.md (DESIGN CHOICE)) -/
def Obligations.FoldTakesSixtyFourSteps : Prop :=
  ∀ (s : State) (ret : Seq), ret ≠ .idle → NoReset s →
    core.run 64 (s.enterFold ret) = .next { s.flush with seq := ret }.afterFold

/-- In ABSORB at a boundary with CNT = 63, no response pending and no reset asserted, the state that WRITE answers is the
state 64 machine steps reach from the stored byte with a fold entered to return to IDLE. The micro-steps and their
sequencer are the model's choice (log entry 5, DESIGN CHOICE), which R5 allows provided that the state at the command
boundary is the rules' one. (derived: 41_padding_length.md section 6 (Control flow), 40_host_commands.md section 3
(WRITE), 00_scope.md section 3 (Scope), the level of the specification, notes/assumptions/5.md (DESIGN CHOICE)) -/
def Obligations.WriteEqualsItsSteps : Prop :=
  ∀ (s : State) (data : Byte), s.seq = .idle → s.phase = .absorb → s.cnt = 63 → s.rsp = none → NoReset s →
    exec (.write data) s
      = core.run 64 ({ s with buf := bufWrite s.buf 63 data, cnt := 64 }.enterFold .foldToIdle)

/-- In ABSORB at a boundary with CNT at most 63, no response pending and no reset asserted: with s1 the state after LENGTH
and the marker, the state that FINAL answers is the one that 64 machine steps reach from the sequencer's entry of the
last fold when CNT is at most 55, and 128 machine steps from its entry of the first fold when CNT is at least 56. The
micro-steps and their sequencer are the model's choice (log entry 5, DESIGN CHOICE), which R5 allows provided that the
state at the command boundary is the rules' one. (derived: 41_padding_length.md section 6 (Control flow),
40_host_commands.md section 4 (FINAL), 00_scope.md section 3 (Scope), the level of the specification,
notes/assumptions/5.md (DESIGN CHOICE)) -/
def Obligations.FinalEqualsItsSteps : Prop :=
  ∀ s s1 : State, s.seq = .idle → s.phase = .absorb → s.cnt.toNat ≤ 63 → s.rsp = none → NoReset s →
    storeAtCnt 0x80 s.latchLength = .next s1 →
    exec .final s = core.run (if s.cnt.toNat ≤ 55 then 64 else 128) s1.finalToFold

/-- In every phase but FAULT, INIT answers a next state that has absorbed the empty message (Absorbed [], the invariant of
INV3) with a canonical buffer. (derived: 10_state.md section 9 (Invariants at command boundaries), INV3) -/
def Obligations.InitStartsTheEmptyMessage : Prop :=
  ∀ s : State, s.phase ≠ .fault → ∃ t, exec .init s = .next t ∧ bufWf t.buf ∧ Absorbed [] t

/-- In every state that has absorbed a message (its residual bytes in the buffer, its blocks counted modulo 2^32 and
folded into the initial constants), WRITE of a byte answers a next state that has absorbed the message with that byte
appended; so the state depends on the bytes alone, not on how they were split into chunks. (derived: 10_state.md
section 9 (Invariants at command boundaries), INV3, 40_host_commands.md section 6 (Properties of the commands)) -/
def Obligations.WriteExtendsTheMessage : Prop :=
  ∀ (msg : List Byte) (s : State) (data : Byte), bufWf s.buf → Absorbed msg s →
    ∃ t, exec (.write data) s = .next t ∧ bufWf t.buf ∧ Absorbed (msg ++ [data]) t

/-- In every state that has absorbed a message of fewer than 2^38 bytes, FINAL answers a next state in DONE with CNT = 0
whose accumulators are the initial constants folded over the blocks of the padded message (the bytes, 0x80, zeros, the
64-bit little-endian bit length), whose buffer bytes 0..15 are their little-endian serialisation, and whose NBLK is
the number of those blocks modulo 2^32. (derived: 00_scope.md section 7 (The agents and the observation), the
functional contract, 41_padding_length.md section 7 (What padding guarantees), 10_state.md section 9, INV4 and INV6) -/
def Obligations.FinalGivesTheDigest : Prop :=
  ∀ (msg : List Byte) (s : State), bufWf s.buf → Absorbed msg s → msg.length < 2 ^ 38 →
    ∃ t, exec .final s = .next t ∧ t.phase = .done ∧ t.cause = s.cause ∧ t.cnt = 0 ∧ t.acc = messageAcc msg ∧
      (∀ i, i < 16 → bufRead t.buf i = digestByte (messageAcc msg) i) ∧
      t.nblk = BitVec.ofNat 32 ((padded msg).length / 64)

/-- In every state that has absorbed a message of n < 2^38 bytes, FINAL answers a next state with NBLK = floor((n + 8) /
64) + 1 modulo 2^32, which is one more than before if n mod 64 is at most 55 and two more if it is at least 56. The
padded message has 64 times that many bytes, and that is the smallest multiple of 64 that is at least n + 9. (derived:
41_padding_length.md section 7 (What padding guarantees), R162, 10_state.md section 9 (Invariants at command
boundaries), INV3 and INV6) -/
def Obligations.PaddedLengthIsWholeBlocks : Prop :=
  (∀ (msg : List Byte) (s : State), bufWf s.buf → Absorbed msg s → msg.length < 2 ^ 38 →
    ∃ t, exec .final s = .next t ∧ t.nblk = BitVec.ofNat 32 ((msg.length + 8) / 64 + 1) ∧
      t.nblk = s.nblk + (if msg.length % 64 ≤ 55 then 1 else 2)) ∧
  (∀ msg : List Byte, (padded msg).length = 64 * ((msg.length + 8) / 64 + 1) ∧
    msg.length + 9 ≤ (padded msg).length ∧ (padded msg).length < msg.length + 9 + 64)

/-- Take two states with an idle sequencer that the host cannot tell apart (same PHASE, CAUSE and response), that are not
in DONE and have the same events presented: whatever else differs (accumulators, buffer, counters, length latch,
working registers), if a step of each answers a next state, the host cannot tell those apart either. (derived:
60_exceptions.md section 3 (Modes and privilege), 00_scope.md section 7 (The agents and the observation), 10_state.md
section 10 (Visibility)) -/
def Obligations.HiddenStateStaysHidden : Prop :=
  ∀ s t s' t' : State, s.seq = .idle → t.seq = .idle → s.input = t.input → observe s = observe t → s.phase ≠ .done →
    step s = .next s' → step t = .next t' → observe s' = observe t'

/-- Any two states that are not in FAULT answer INIT with next states that agree in the accumulators, NBLK, CNT, the
length latch, the buffer, PHASE and the absence of a response. (derived: 10_state.md section 10 (Visibility),
70_reset_and_hazards.md section 1 (Reset)) -/
def Obligations.InitForgetsThePast : Prop :=
  ∀ s t : State, s.phase ≠ .fault → t.phase ≠ .fault →
    ∃ s' t', exec .init s = .next s' ∧ exec .init t = .next t' ∧ s'.acc = t'.acc ∧ s'.nblk = t'.nblk ∧ s'.cnt = t'.cnt ∧
      s'.lenlo = t'.lenlo ∧ s'.lenhi = t'.lenhi ∧ s'.buf = t'.buf ∧ s'.phase = t'.phase ∧ s'.rsp = none ∧ t'.rsp = none

/-- Take two states with the same PHASE, CAUSE, NBLK and CNT; whatever their accumulators, buffers and working registers,
a command (with any operands of its kind) that answers next states for both leaves the same PHASE, CAUSE, NBLK, CNT
and length latch if the length latches agreed before. (derived: 70_reset_and_hazards.md section 4 (Timing), data-
independence of control) -/
def Obligations.ControlIsDataIndependent : Prop :=
  ∀ (s t s' t' : State) (d e : Byte) (x y : BitVec 4),
    s.phase = t.phase → s.cause = t.cause → s.nblk = t.nblk → s.cnt = t.cnt → s.lenlo = t.lenlo → s.lenhi = t.lenhi →
    ((exec .init s = .next s' ∧ exec .init t = .next t') ∨ (exec (.write d) s = .next s' ∧ exec (.write e) t = .next t') ∨
      (exec .final s = .next s' ∧ exec .final t = .next t') ∨ (exec (.read x) s = .next s' ∧ exec (.read y) t = .next t')) →
    s'.phase = t'.phase ∧ s'.cause = t'.cause ∧ s'.nblk = t'.nblk ∧ s'.cnt = t'.cnt ∧ s'.lenlo = t'.lenlo ∧
      s'.lenhi = t'.lenhi

/-- From every state that meets BoundaryInv and that, if in ABSORB, has absorbed some message, every step, whatever the
event, gives such a state again. The message it holds then is the message before (no word, or a step without effect),
the empty one (INIT), or the message before with the byte of the accepted WRITE word appended; bufWf in BoundaryInv is
the model's own form of the buffer (log entries 1 and 4, DESIGN CHOICE). (derived: 10_state.md section 9 (Invariants
at command boundaries), INV3, 40_host_commands.md section 6 (Properties of the commands), notes/assumptions/1.md
(DESIGN CHOICE), notes/assumptions/4.md (DESIGN CHOICE)) -/
def Obligations.AbsorbAlwaysHoldsAMessage : Prop :=
  ∀ (s t : State) (msg : List Byte), BoundaryInv s → (s.phase = .absorb → Absorbed msg s) → step s = .next t →
    BoundaryInv t ∧
    (t.phase = .absorb →
      (s.phase = .absorb ∧ s.input = [] ∧ Absorbed msg t) ∨
      (s.phase ≠ .fault ∧ Absorbed [] t ∧ ∃ rest, s.input = .command 0x000 :: rest) ∨
      (s.phase = .absorb ∧ ∃ (data : Byte) (rest : List PortEvent),
        s.input = .command (BitVec.ofNat 10 (0x100 + data.toNat)) :: rest ∧ Absorbed (msg ++ [data]) t))
end

