-- ==== Sys2Proof/Laws/Decode.lean ====
section
/-! SUPPORT. The laws of the decoder and the step rows: STEP selects 64 different instructions, and a command word's class
follows from its two fields. -/

namespace Sys2Proof

/-- Every value of STEP as a number below 64. -/
theorem step_eq_ofNat (i : BitVec 6) : i = BitVec.ofNat 6 i.toNat := by simp

/-- STEP selects row `i` and no other (R97). -/
theorem encode_stepInstr : ∀ i : BitVec 6, encode (stepInstr i) = .row i := by decide +kernel

/-- The step whose row is `n` is the one STEP = `n` selects. -/
theorem stepInstr_of_encode (i : Instr) (n : BitVec 6) (h : encode i = .row n) : stepInstr n = i := by
  cases i <;> simp only [encode, Selector.row.injEq, reduceCtorEq] at h <;> subst h <;> rfl

/-- The step that STEP selects stands in row STEP of the opcode table. -/
theorem tableRow_stepInstr : ∀ i : BitVec 6, tableRow (stepInstr i) = .step i := by decide +kernel

/-- Two values of STEP never select one instruction. -/
theorem stepInstr_injective (i j : BitVec 6) (h : stepInstr i = stepInstr j) : i = j := by
  have e := congrArg encode h
  rw [encode_stepInstr, encode_stepInstr] at e
  exact Selector.row.inj e

/-- A word that decodes is `INIT`, `FINAL`, a `WRITE` of its low byte or a `READ` of its low four bits, as its row says. -/
theorem decodeCommand_ok (w : BitVec 10) (i : Instr) (h : decodeCommand w = .ok i) :
    (w &&& 0x3FF = 0x000 ∧ i = .init) ∨ (w &&& 0x300 = 0x100 ∧ i = .write (immField w)) ∨
    (w &&& 0x3FF = 0x200 ∧ i = .final) ∨ (w &&& 0x3F0 = 0x300 ∧ i = .read (idxField w)) := by
  unfold decodeCommand at h
  split_ifs at h with h1 h2 h3 h4 <;> simp_all

/-- No command word decodes to a step: "A step is not issued by the host" (R97). -/
theorem decodeCommand_ne_step (w : BitVec 10) (i : BitVec 6) : decodeCommand w ≠ .ok (stepInstr i) := by
  intro h
  have e := encode_stepInstr i
  rcases decodeCommand_ok w _ h with ⟨-, hi⟩ | ⟨-, hi⟩ | ⟨-, hi⟩ | ⟨-, hi⟩ <;> rw [hi] at e <;> simp [encode] at e

end Sys2Proof
end

