-- ==== Sys2Proof/Laws/Memory.lean ====
section
/-! SUPPORT. The laws of the block buffer: a read after a write, little-endian words, and that every memory operation
keeps the canonical form. -/

namespace Sys2Proof.Machine

/-! ### Reading after writing -/

@[simp] theorem bufRead_bufClear (a : Nat) : bufRead bufClear a = 0#8 := rfl

/-- No listed address is below the head's, so a lower address reads as unlisted. -/
theorem bufRead_of_lt (m : Buffer) (a : Nat) (h : ∀ x ∈ m, a < x.1) : bufRead m a = 0#8 := by
  induction m with
  | nil => rfl
  | cons x m ih =>
    have hx := h x (by simp)
    simp only [bufRead]
    rw [if_neg (by omega), ih fun y hy => h y (by simp [hy])]

/-- A read after a write gives the byte written at its address and what was there everywhere else; the list must rise. -/
theorem bufRead_bufWrite (m : Buffer) (h : m.Pairwise fun x y => x.1 < y.1) (a b : Nat) (v : Byte) :
    bufRead (bufWrite m a v) b = if b = a then v else bufRead m b := by
  induction m with
  | nil =>
    by_cases hv : v = 0#8 <;> by_cases hb : b = a
    · simp [bufWrite, bufRead, hv]
    · simp [bufWrite, bufRead, hv]
    · simp [bufWrite, bufRead, hv, hb]
    · simp [bufWrite, bufRead, hv, hb, Ne.symm hb]
  | cons x m ih =>
    obtain ⟨c, u⟩ := x
    obtain ⟨hx, hm⟩ := List.pairwise_cons.mp h
    have below : ∀ e, e ≤ c → bufRead m e = 0#8 := fun e he =>
      bufRead_of_lt m e fun y hy => lt_of_le_of_lt he (hx y hy)
    rcases Nat.lt_trichotomy a c with hac | hac | hac
    · by_cases hv : v = 0#8 <;> by_cases hb : b = a
      · simp [bufWrite, bufRead, hac, hv, hb, below a hac.le, hac.ne']
      · simp [bufWrite, bufRead, hac, hv, hb]
      · simp [bufWrite, bufRead, hac, hv, hb]
      · simp [bufWrite, bufRead, hac, hv, hb, Ne.symm hb]
    · subst hac
      by_cases hv : v = 0#8 <;> by_cases hb : b = a
      · simp [bufWrite, hv, hb, below a le_rfl]
      · simp [bufWrite, bufRead, hv, hb, Ne.symm hb]
      · simp [bufWrite, bufRead, hv, hb]
      · simp [bufWrite, bufRead, hv, hb, Ne.symm hb]
    · have h1 : ¬a < c := by omega
      have h2 : ¬a = c := by omega
      rw [bufWrite, if_neg h1, if_neg h2, bufRead, ih hm, bufRead]
      by_cases hb : b = a
      · rw [if_pos hb, if_pos hb, if_neg (by omega)]
      · rw [if_neg hb, if_neg hb]

/-! ### The canonical form -/

theorem mem_bufWrite (m : Buffer) (a : Nat) (v : Byte) (x : Host.Cell) (h : x ∈ bufWrite m a v) :
    x ∈ m ∨ (x = (a, v) ∧ v ≠ 0#8) := by
  induction m with
  | nil =>
    simp only [bufWrite] at h
    split at h <;> simp_all
  | cons y m ih =>
    simp only [bufWrite] at h
    split_ifs at h <;> simp_all <;> tauto

/-- A write inside the buffer keeps the canonical form. -/
theorem bufWf_bufWrite (m : Buffer) (h : bufWf m) (a : Nat) (ha : a < 64) (v : Byte) : bufWf (bufWrite m a v) := by
  refine ⟨?_, fun x hx => ?_⟩
  · have hp := h.1
    clear h
    induction m with
    | nil => simp only [bufWrite]; split <;> simp
    | cons y m ih =>
      obtain ⟨hy, hm⟩ := List.pairwise_cons.mp hp
      simp only [bufWrite]
      split_ifs with h1 h2 h3 h4
      · exact hp
      · refine List.pairwise_cons.mpr ⟨fun z hz => ?_, hp⟩
        rcases List.mem_cons.mp hz with rfl | hz
        · exact h1
        · exact lt_trans h1 (hy z hz)
      · exact hm
      · exact List.pairwise_cons.mpr ⟨fun z hz => h3 ▸ hy z hz, hm⟩
      · refine List.pairwise_cons.mpr ⟨fun z hz => ?_, ih hm⟩
        rcases mem_bufWrite m a v z hz with hz | ⟨rfl, -⟩
        · exact hy z hz
        · simp only; omega
  · rcases mem_bufWrite m a v x hx with hx | ⟨rfl, hv⟩
    · exact h.2 x hx
    · exact ⟨ha, hv⟩

theorem bufWf_bufClear : bufWf bufClear := by simp [bufWf, bufClear]

theorem bufWf_memZero (n : Nat) : ∀ (m : Buffer) (a : Nat), bufWf m → a + n ≤ 64 → bufWf (memZero m a n) := by
  induction n with
  | zero => intro m a h _; rw [memZero]; exact h
  | succ n ih =>
    intro m a h ha
    rw [memZero]
    exact ih _ _ (bufWf_bufWrite m h a (by omega) 0#8) (by omega)

theorem bufWf_memWrite (n : Nat) : ∀ (m : Buffer) (a v : Nat), bufWf m → a + n ≤ 64 → bufWf (memWrite m a n v) := by
  induction n with
  | zero => intro m a v h _; rw [memWrite]; exact h
  | succ n ih =>
    intro m a v h ha
    rw [memWrite]
    exact ih _ _ _ (bufWf_bufWrite m h a (by omega) _) (by omega)

theorem bufWf_storeWord (m : Buffer) (a : Nat) (w : Word) (h : bufWf m) (ha : a + 4 ≤ 64) : bufWf (storeWord m a w) :=
  bufWf_memWrite 4 m a w.toNat h ha

/-! ### Runs of bytes -/

/-- The zero-fill loop writes 0x00 to its bytes and nothing else. -/
theorem bufRead_memZero (n : Nat) : ∀ (m : Buffer) (a b : Nat), bufWf m → a + n ≤ 64 →
    bufRead (memZero m a n) b = if a ≤ b ∧ b < a + n then 0#8 else bufRead m b := by
  induction n with
  | zero => intro m a b _ _; rw [memZero, if_neg (by omega)]
  | succ n ih =>
    intro m a b h ha
    rw [memZero, ih _ _ _ (bufWf_bufWrite m h a (by omega) 0#8) (by omega), bufRead_bufWrite m h.1]
    split_ifs <;> first | rfl | omega

/-- `MemWrite` writes byte `k` of the value at `addr + k` (R12) and nothing else. -/
theorem bufRead_memWrite (n : Nat) : ∀ (m : Buffer) (a b v : Nat), bufWf m → a + n ≤ 64 →
    bufRead (memWrite m a n v) b
      = if a ≤ b ∧ b < a + n then BitVec.ofNat 8 (v / 256 ^ (b - a)) else bufRead m b := by
  induction n with
  | zero => intro m a b v _ _; rw [memWrite, if_neg (by omega)]
  | succ n ih =>
    intro m a b v h ha
    rw [memWrite, ih _ _ _ _ (bufWf_bufWrite m h a (by omega) _) (by omega), bufRead_bufWrite m h.1]
    by_cases hb : b = a
    · subst hb
      simp
    · by_cases hr : a ≤ b ∧ b < a + (n + 1)
      · rw [if_pos (by omega), if_pos hr, Nat.div_div_eq_div_mul]
        have e : b - a = (b - (a + 1)) + 1 := by omega
        rw [e, Nat.pow_succ, Nat.mul_comm]
      · rw [if_neg (by omega), if_neg hr, if_neg hb]

/-- A stored word puts byte `k` of the word at `addr + k`, least significant first (R78, R79). -/
theorem bufRead_storeWord (m : Buffer) (a b : Nat) (w : Word) (h : bufWf m) (ha : a + 4 ≤ 64) :
    bufRead (storeWord m a w) b
      = if a ≤ b ∧ b < a + 4 then w.extractLsb' (8 * (b - a)) 8 else bufRead m b := by
  unfold storeWord
  rw [bufRead_memWrite 4 m a b _ h ha]
  split
  · apply BitVec.eq_of_toNat_eq
    rw [BitVec.toNat_ofNat, BitVec.extractLsb'_toNat, Nat.shiftRight_eq_div_pow, Nat.pow_mul]
  · rfl

/-- A message word by its four bytes (R64). -/
theorem messageWord_toNat (m : Buffer) (j : Nat) :
    (messageWord m j).toNat = (bufRead m (4 * j)).toNat + (bufRead m (4 * j + 1)).toNat * 2 ^ 8
      + (bufRead m (4 * j + 2)).toNat * 2 ^ 16 + (bufRead m (4 * j + 3)).toNat * 2 ^ 24 := by
  have h0 := (bufRead m (4 * j)).isLt
  have h1 := (bufRead m (4 * j + 1)).isLt
  have h2 := (bufRead m (4 * j + 2)).isLt
  have h3 := (bufRead m (4 * j + 3)).isLt
  rw [messageWord, BitVec.toNat_ofNat]
  rw [memRead, memRead, memRead, memRead, memRead]
  simp only [Nat.add_assoc, Nat.reduceAdd]
  omega

/-- Two buffers with the same bytes have the same message words. -/
theorem messageWord_congr (m m' : Buffer) (j : Nat) (h : ∀ a, 4 * j ≤ a → a < 4 * j + 4 → bufRead m a = bufRead m' a) :
    messageWord m j = messageWord m' j := by
  apply BitVec.eq_of_toNat_eq
  rw [messageWord_toNat, messageWord_toNat, h _ (by omega) (by omega), h _ (by omega) (by omega),
    h _ (by omega) (by omega), h _ (by omega) (by omega)]

end Sys2Proof.Machine
end

