-- ==== Sys2Proof/Laws/State.lean ====
section
/-! SUPPORT. What each named operation does to each field of the state: one lemma per field per operation, true by rfl, so
that no later proof unfolds a record update. The proofs stand in parentheses, `(rfl)`, so that simp cites the lemma in the
proof term: the kernel then never compares two states through a fold. -/

namespace Sys2Proof.Machine

/-- Two states with the same fields are the same. Compare states by this and the lemmas below, not by `rfl`. -/
theorem State.eq_of_fields {s t : State} (folds : s.folds = t.folds) (acc : s.acc = t.acc) (work : s.work = t.work)
    (stepReg : s.stepReg = t.stepReg) (phase : s.phase = t.phase) (cause : s.cause = t.cause) (nblk : s.nblk = t.nblk)
    (cnt : s.cnt = t.cnt) (lenlo : s.lenlo = t.lenlo) (lenhi : s.lenhi = t.lenhi) (buf : s.buf = t.buf)
    (seq : s.seq = t.seq) (input : s.input = t.input) (rsp : s.rsp = t.rsp) : s = t := by
  cases s
  cases t
  simp_all

variable (s : State)

/-! `State.silent` -/

@[simp] theorem State.silent_acc : s.silent.acc = s.acc := (rfl)
@[simp] theorem State.silent_work : s.silent.work = s.work := (rfl)
@[simp] theorem State.silent_stepReg : s.silent.stepReg = s.stepReg := (rfl)
@[simp] theorem State.silent_phase : s.silent.phase = s.phase := (rfl)
@[simp] theorem State.silent_cause : s.silent.cause = s.cause := (rfl)
@[simp] theorem State.silent_nblk : s.silent.nblk = s.nblk := (rfl)
@[simp] theorem State.silent_cnt : s.silent.cnt = s.cnt := (rfl)
@[simp] theorem State.silent_lenlo : s.silent.lenlo = s.lenlo := (rfl)
@[simp] theorem State.silent_lenhi : s.silent.lenhi = s.lenhi := (rfl)
@[simp] theorem State.silent_buf : s.silent.buf = s.buf := (rfl)
@[simp] theorem State.silent_seq : s.silent.seq = s.seq := (rfl)
@[simp] theorem State.silent_input : s.silent.input = s.input := (rfl)
@[simp] theorem State.silent_rsp : s.silent.rsp = none := (rfl)
@[simp] theorem State.silent_folds : s.silent.folds = s.folds := (rfl)

/-! `State.respond` -/

@[simp] theorem State.respond_acc (v : Byte) : (s.respond v).acc = s.acc := (rfl)
@[simp] theorem State.respond_work (v : Byte) : (s.respond v).work = s.work := (rfl)
@[simp] theorem State.respond_stepReg (v : Byte) : (s.respond v).stepReg = s.stepReg := (rfl)
@[simp] theorem State.respond_phase (v : Byte) : (s.respond v).phase = s.phase := (rfl)
@[simp] theorem State.respond_cause (v : Byte) : (s.respond v).cause = s.cause := (rfl)
@[simp] theorem State.respond_nblk (v : Byte) : (s.respond v).nblk = s.nblk := (rfl)
@[simp] theorem State.respond_cnt (v : Byte) : (s.respond v).cnt = s.cnt := (rfl)
@[simp] theorem State.respond_lenlo (v : Byte) : (s.respond v).lenlo = s.lenlo := (rfl)
@[simp] theorem State.respond_lenhi (v : Byte) : (s.respond v).lenhi = s.lenhi := (rfl)
@[simp] theorem State.respond_buf (v : Byte) : (s.respond v).buf = s.buf := (rfl)
@[simp] theorem State.respond_seq (v : Byte) : (s.respond v).seq = s.seq := (rfl)
@[simp] theorem State.respond_input (v : Byte) : (s.respond v).input = s.input := (rfl)
@[simp] theorem State.respond_rsp (v : Byte) : (s.respond v).rsp = some v := (rfl)
@[simp] theorem State.respond_folds (v : Byte) : (s.respond v).folds = s.folds := (rfl)

/-! `State.violation` -/

@[simp] theorem State.violation_acc (k : Violation) : (s.violation k).acc = s.acc := (rfl)
@[simp] theorem State.violation_work (k : Violation) : (s.violation k).work = s.work := (rfl)
@[simp] theorem State.violation_stepReg (k : Violation) : (s.violation k).stepReg = s.stepReg := (rfl)
@[simp] theorem State.violation_phase (k : Violation) : (s.violation k).phase = .fault := (rfl)
@[simp] theorem State.violation_cause (k : Violation) : (s.violation k).cause = k.code := (rfl)
@[simp] theorem State.violation_nblk (k : Violation) : (s.violation k).nblk = s.nblk := (rfl)
@[simp] theorem State.violation_cnt (k : Violation) : (s.violation k).cnt = s.cnt := (rfl)
@[simp] theorem State.violation_lenlo (k : Violation) : (s.violation k).lenlo = s.lenlo := (rfl)
@[simp] theorem State.violation_lenhi (k : Violation) : (s.violation k).lenhi = s.lenhi := (rfl)
@[simp] theorem State.violation_buf (k : Violation) : (s.violation k).buf = s.buf := (rfl)
@[simp] theorem State.violation_seq (k : Violation) : (s.violation k).seq = s.seq := (rfl)
@[simp] theorem State.violation_input (k : Violation) : (s.violation k).input = s.input := (rfl)
@[simp] theorem State.violation_rsp (k : Violation) : (s.violation k).rsp = none := (rfl)
@[simp] theorem State.violation_folds (k : Violation) : (s.violation k).folds = s.folds := (rfl)

/-! `State.resetEvent` -/

@[simp] theorem State.resetEvent_acc : s.resetEvent.acc = ⟨0, 0, 0, 0⟩ := (rfl)
@[simp] theorem State.resetEvent_work : s.resetEvent.work = ⟨0, 0, 0, 0⟩ := (rfl)
@[simp] theorem State.resetEvent_stepReg : s.resetEvent.stepReg = 0 := (rfl)
@[simp] theorem State.resetEvent_phase : s.resetEvent.phase = .uninit := (rfl)
@[simp] theorem State.resetEvent_cause : s.resetEvent.cause = 0 := (rfl)
@[simp] theorem State.resetEvent_nblk : s.resetEvent.nblk = 0 := (rfl)
@[simp] theorem State.resetEvent_cnt : s.resetEvent.cnt = 0 := (rfl)
@[simp] theorem State.resetEvent_lenlo : s.resetEvent.lenlo = 0 := (rfl)
@[simp] theorem State.resetEvent_lenhi : s.resetEvent.lenhi = 0 := (rfl)
@[simp] theorem State.resetEvent_buf : s.resetEvent.buf = [] := (rfl)
@[simp] theorem State.resetEvent_seq : s.resetEvent.seq = .idle := (rfl)
@[simp] theorem State.resetEvent_input : s.resetEvent.input = s.input := (rfl)
@[simp] theorem State.resetEvent_rsp : s.resetEvent.rsp = none := (rfl)
@[simp] theorem State.resetEvent_folds : s.resetEvent.folds = s.folds := (rfl)

/-! `State.initialise` -/

@[simp] theorem State.initialise_acc : s.initialise.acc = ⟨Config.initW0, Config.initW1, Config.initW2, Config.initW3⟩ := (rfl)
@[simp] theorem State.initialise_work : s.initialise.work = s.work := (rfl)
@[simp] theorem State.initialise_stepReg : s.initialise.stepReg = s.stepReg := (rfl)
@[simp] theorem State.initialise_phase : s.initialise.phase = .absorb := (rfl)
@[simp] theorem State.initialise_cause : s.initialise.cause = s.cause := (rfl)
@[simp] theorem State.initialise_nblk : s.initialise.nblk = 0 := (rfl)
@[simp] theorem State.initialise_cnt : s.initialise.cnt = 0 := (rfl)
@[simp] theorem State.initialise_lenlo : s.initialise.lenlo = 0 := (rfl)
@[simp] theorem State.initialise_lenhi : s.initialise.lenhi = 0 := (rfl)
@[simp] theorem State.initialise_buf : s.initialise.buf = bufClear := (rfl)
@[simp] theorem State.initialise_seq : s.initialise.seq = s.seq := (rfl)
@[simp] theorem State.initialise_input : s.initialise.input = s.input := (rfl)
@[simp] theorem State.initialise_rsp : s.initialise.rsp = s.rsp := (rfl)
@[simp] theorem State.initialise_folds : s.initialise.folds = s.folds := (rfl)

/-! `State.doStep` -/

@[simp] theorem State.doStep_acc (row : Row) : (s.doStep row).acc = s.acc := (rfl)
@[simp] theorem State.doStep_work (row : Row) : (s.doStep row).work = stepRoles row (messageWord s.buf row.g) s.work := (rfl)
@[simp] theorem State.doStep_stepReg (row : Row) : (s.doStep row).stepReg = s.stepReg := (rfl)
@[simp] theorem State.doStep_phase (row : Row) : (s.doStep row).phase = s.phase := (rfl)
@[simp] theorem State.doStep_cause (row : Row) : (s.doStep row).cause = s.cause := (rfl)
@[simp] theorem State.doStep_nblk (row : Row) : (s.doStep row).nblk = s.nblk := (rfl)
@[simp] theorem State.doStep_cnt (row : Row) : (s.doStep row).cnt = s.cnt := (rfl)
@[simp] theorem State.doStep_lenlo (row : Row) : (s.doStep row).lenlo = s.lenlo := (rfl)
@[simp] theorem State.doStep_lenhi (row : Row) : (s.doStep row).lenhi = s.lenhi := (rfl)
@[simp] theorem State.doStep_buf (row : Row) : (s.doStep row).buf = s.buf := (rfl)
@[simp] theorem State.doStep_seq (row : Row) : (s.doStep row).seq = s.seq := (rfl)
@[simp] theorem State.doStep_input (row : Row) : (s.doStep row).input = s.input := (rfl)
@[simp] theorem State.doStep_rsp (row : Row) : (s.doStep row).rsp = s.rsp := (rfl)
@[simp] theorem State.doStep_folds (row : Row) : (s.doStep row).folds = s.folds := (rfl)

/-! `State.foldStart` -/

@[simp] theorem State.foldStart_acc : s.foldStart.acc = s.acc := (rfl)
@[simp] theorem State.foldStart_work : s.foldStart.work = workingOf s.acc := (rfl)
@[simp] theorem State.foldStart_stepReg : s.foldStart.stepReg = 0 := (rfl)
@[simp] theorem State.foldStart_phase : s.foldStart.phase = s.phase := (rfl)
@[simp] theorem State.foldStart_cause : s.foldStart.cause = s.cause := (rfl)
@[simp] theorem State.foldStart_nblk : s.foldStart.nblk = s.nblk := (rfl)
@[simp] theorem State.foldStart_cnt : s.foldStart.cnt = s.cnt := (rfl)
@[simp] theorem State.foldStart_lenlo : s.foldStart.lenlo = s.lenlo := (rfl)
@[simp] theorem State.foldStart_lenhi : s.foldStart.lenhi = s.lenhi := (rfl)
@[simp] theorem State.foldStart_buf : s.foldStart.buf = s.buf := (rfl)
@[simp] theorem State.foldStart_seq : s.foldStart.seq = s.seq := (rfl)
@[simp] theorem State.foldStart_input : s.foldStart.input = s.input := (rfl)
@[simp] theorem State.foldStart_rsp : s.foldStart.rsp = s.rsp := (rfl)
@[simp] theorem State.foldStart_folds : s.foldStart.folds = s.folds := (rfl)

/-! `State.addBack` -/

@[simp] theorem State.addBack_acc : s.addBack.acc = addInto s.acc s.work := (rfl)
@[simp] theorem State.addBack_work : s.addBack.work = s.work := (rfl)
@[simp] theorem State.addBack_stepReg : s.addBack.stepReg = s.stepReg := (rfl)
@[simp] theorem State.addBack_phase : s.addBack.phase = s.phase := (rfl)
@[simp] theorem State.addBack_cause : s.addBack.cause = s.cause := (rfl)
@[simp] theorem State.addBack_nblk : s.addBack.nblk = s.nblk := (rfl)
@[simp] theorem State.addBack_cnt : s.addBack.cnt = s.cnt := (rfl)
@[simp] theorem State.addBack_lenlo : s.addBack.lenlo = s.lenlo := (rfl)
@[simp] theorem State.addBack_lenhi : s.addBack.lenhi = s.lenhi := (rfl)
@[simp] theorem State.addBack_buf : s.addBack.buf = s.buf := (rfl)
@[simp] theorem State.addBack_seq : s.addBack.seq = s.seq := (rfl)
@[simp] theorem State.addBack_input : s.addBack.input = s.input := (rfl)
@[simp] theorem State.addBack_rsp : s.addBack.rsp = s.rsp := (rfl)
@[simp] theorem State.addBack_folds : s.addBack.folds = s.folds := (rfl)

/-! `State.releaseWork` -/

@[simp] theorem State.releaseWork_acc : s.releaseWork.acc = s.acc := (rfl)
@[simp] theorem State.releaseWork_work : s.releaseWork.work = ⟨Config.freeWord s.folds 0, Config.freeWord s.folds 1, Config.freeWord s.folds 2, Config.freeWord s.folds 3⟩ := (rfl)
@[simp] theorem State.releaseWork_stepReg : s.releaseWork.stepReg = Config.freeStep s.folds := (rfl)
@[simp] theorem State.releaseWork_phase : s.releaseWork.phase = s.phase := (rfl)
@[simp] theorem State.releaseWork_cause : s.releaseWork.cause = s.cause := (rfl)
@[simp] theorem State.releaseWork_nblk : s.releaseWork.nblk = s.nblk := (rfl)
@[simp] theorem State.releaseWork_cnt : s.releaseWork.cnt = s.cnt := (rfl)
@[simp] theorem State.releaseWork_lenlo : s.releaseWork.lenlo = s.lenlo := (rfl)
@[simp] theorem State.releaseWork_lenhi : s.releaseWork.lenhi = s.lenhi := (rfl)
@[simp] theorem State.releaseWork_buf : s.releaseWork.buf = s.buf := (rfl)
@[simp] theorem State.releaseWork_seq : s.releaseWork.seq = s.seq := (rfl)
@[simp] theorem State.releaseWork_input : s.releaseWork.input = s.input := (rfl)
@[simp] theorem State.releaseWork_rsp : s.releaseWork.rsp = s.rsp := (rfl)
@[simp] theorem State.releaseWork_folds : s.releaseWork.folds = s.folds + 1 := (rfl)

/-! `State.countBlock` -/

@[simp] theorem State.countBlock_acc : s.countBlock.acc = s.acc := (rfl)
@[simp] theorem State.countBlock_work : s.countBlock.work = s.work := (rfl)
@[simp] theorem State.countBlock_stepReg : s.countBlock.stepReg = s.stepReg := (rfl)
@[simp] theorem State.countBlock_phase : s.countBlock.phase = s.phase := (rfl)
@[simp] theorem State.countBlock_cause : s.countBlock.cause = s.cause := (rfl)
@[simp] theorem State.countBlock_nblk : s.countBlock.nblk = add32 s.nblk 1 := (rfl)
@[simp] theorem State.countBlock_cnt : s.countBlock.cnt = 0 := (rfl)
@[simp] theorem State.countBlock_lenlo : s.countBlock.lenlo = s.lenlo := (rfl)
@[simp] theorem State.countBlock_lenhi : s.countBlock.lenhi = s.lenhi := (rfl)
@[simp] theorem State.countBlock_buf : s.countBlock.buf = s.buf := (rfl)
@[simp] theorem State.countBlock_seq : s.countBlock.seq = s.seq := (rfl)
@[simp] theorem State.countBlock_input : s.countBlock.input = s.input := (rfl)
@[simp] theorem State.countBlock_rsp : s.countBlock.rsp = s.rsp := (rfl)
@[simp] theorem State.countBlock_folds : s.countBlock.folds = s.folds := (rfl)

/-! `State.latchLength` -/

@[simp] theorem State.latchLength_acc : s.latchLength.acc = s.acc := (rfl)
@[simp] theorem State.latchLength_work : s.latchLength.work = s.work := (rfl)
@[simp] theorem State.latchLength_stepReg : s.latchLength.stepReg = s.stepReg := (rfl)
@[simp] theorem State.latchLength_phase : s.latchLength.phase = s.phase := (rfl)
@[simp] theorem State.latchLength_cause : s.latchLength.cause = s.cause := (rfl)
@[simp] theorem State.latchLength_nblk : s.latchLength.nblk = s.nblk := (rfl)
@[simp] theorem State.latchLength_cnt : s.latchLength.cnt = s.cnt := (rfl)
@[simp] theorem State.latchLength_lenlo : s.latchLength.lenlo = (lengthWords s.nblk s.cnt).1 := (rfl)
@[simp] theorem State.latchLength_lenhi : s.latchLength.lenhi = (lengthWords s.nblk s.cnt).2 := (rfl)
@[simp] theorem State.latchLength_buf : s.latchLength.buf = s.buf := (rfl)
@[simp] theorem State.latchLength_seq : s.latchLength.seq = s.seq := (rfl)
@[simp] theorem State.latchLength_input : s.latchLength.input = s.input := (rfl)
@[simp] theorem State.latchLength_rsp : s.latchLength.rsp = s.rsp := (rfl)
@[simp] theorem State.latchLength_folds : s.latchLength.folds = s.folds := (rfl)

/-! `State.zeroFill` -/

@[simp] theorem State.zeroFill_acc (limit : BitVec 7) : (s.zeroFill limit).acc = s.acc := (rfl)
@[simp] theorem State.zeroFill_work (limit : BitVec 7) : (s.zeroFill limit).work = s.work := (rfl)
@[simp] theorem State.zeroFill_stepReg (limit : BitVec 7) : (s.zeroFill limit).stepReg = s.stepReg := (rfl)
@[simp] theorem State.zeroFill_phase (limit : BitVec 7) : (s.zeroFill limit).phase = s.phase := (rfl)
@[simp] theorem State.zeroFill_cause (limit : BitVec 7) : (s.zeroFill limit).cause = s.cause := (rfl)
@[simp] theorem State.zeroFill_nblk (limit : BitVec 7) : (s.zeroFill limit).nblk = s.nblk := (rfl)
@[simp] theorem State.zeroFill_cnt (limit : BitVec 7) : (s.zeroFill limit).cnt = limit := (rfl)
@[simp] theorem State.zeroFill_lenlo (limit : BitVec 7) : (s.zeroFill limit).lenlo = s.lenlo := (rfl)
@[simp] theorem State.zeroFill_lenhi (limit : BitVec 7) : (s.zeroFill limit).lenhi = s.lenhi := (rfl)
@[simp] theorem State.zeroFill_buf (limit : BitVec 7) : (s.zeroFill limit).buf = memZero s.buf s.cnt.toNat (limit.toNat - s.cnt.toNat) := (rfl)
@[simp] theorem State.zeroFill_seq (limit : BitVec 7) : (s.zeroFill limit).seq = s.seq := (rfl)
@[simp] theorem State.zeroFill_input (limit : BitVec 7) : (s.zeroFill limit).input = s.input := (rfl)
@[simp] theorem State.zeroFill_rsp (limit : BitVec 7) : (s.zeroFill limit).rsp = s.rsp := (rfl)
@[simp] theorem State.zeroFill_folds (limit : BitVec 7) : (s.zeroFill limit).folds = s.folds := (rfl)

/-! `State.zeroHead` -/

@[simp] theorem State.zeroHead_acc : s.zeroHead.acc = s.acc := (rfl)
@[simp] theorem State.zeroHead_work : s.zeroHead.work = s.work := (rfl)
@[simp] theorem State.zeroHead_stepReg : s.zeroHead.stepReg = s.stepReg := (rfl)
@[simp] theorem State.zeroHead_phase : s.zeroHead.phase = s.phase := (rfl)
@[simp] theorem State.zeroHead_cause : s.zeroHead.cause = s.cause := (rfl)
@[simp] theorem State.zeroHead_nblk : s.zeroHead.nblk = s.nblk := (rfl)
@[simp] theorem State.zeroHead_cnt : s.zeroHead.cnt = 56 := (rfl)
@[simp] theorem State.zeroHead_lenlo : s.zeroHead.lenlo = s.lenlo := (rfl)
@[simp] theorem State.zeroHead_lenhi : s.zeroHead.lenhi = s.lenhi := (rfl)
@[simp] theorem State.zeroHead_buf : s.zeroHead.buf = memZero s.buf 0 56 := (rfl)
@[simp] theorem State.zeroHead_seq : s.zeroHead.seq = s.seq := (rfl)
@[simp] theorem State.zeroHead_input : s.zeroHead.input = s.input := (rfl)
@[simp] theorem State.zeroHead_rsp : s.zeroHead.rsp = s.rsp := (rfl)
@[simp] theorem State.zeroHead_folds : s.zeroHead.folds = s.folds := (rfl)

/-! `State.placeLen` -/

@[simp] theorem State.placeLen_acc : s.placeLen.acc = s.acc := (rfl)
@[simp] theorem State.placeLen_work : s.placeLen.work = s.work := (rfl)
@[simp] theorem State.placeLen_stepReg : s.placeLen.stepReg = s.stepReg := (rfl)
@[simp] theorem State.placeLen_phase : s.placeLen.phase = s.phase := (rfl)
@[simp] theorem State.placeLen_cause : s.placeLen.cause = s.cause := (rfl)
@[simp] theorem State.placeLen_nblk : s.placeLen.nblk = s.nblk := (rfl)
@[simp] theorem State.placeLen_cnt : s.placeLen.cnt = 64 := (rfl)
@[simp] theorem State.placeLen_lenlo : s.placeLen.lenlo = s.lenlo := (rfl)
@[simp] theorem State.placeLen_lenhi : s.placeLen.lenhi = s.lenhi := (rfl)
@[simp] theorem State.placeLen_buf : s.placeLen.buf = storeWord (storeWord s.buf Config.padTarget s.lenlo) (Config.padTarget + 4) s.lenhi := (rfl)
@[simp] theorem State.placeLen_seq : s.placeLen.seq = s.seq := (rfl)
@[simp] theorem State.placeLen_input : s.placeLen.input = s.input := (rfl)
@[simp] theorem State.placeLen_rsp : s.placeLen.rsp = s.rsp := (rfl)
@[simp] theorem State.placeLen_folds : s.placeLen.folds = s.folds := (rfl)

/-! `State.serialize` -/

@[simp] theorem State.serialize_acc : s.serialize.acc = s.acc := (rfl)
@[simp] theorem State.serialize_work : s.serialize.work = s.work := (rfl)
@[simp] theorem State.serialize_stepReg : s.serialize.stepReg = s.stepReg := (rfl)
@[simp] theorem State.serialize_phase : s.serialize.phase = s.phase := (rfl)
@[simp] theorem State.serialize_cause : s.serialize.cause = s.cause := (rfl)
@[simp] theorem State.serialize_nblk : s.serialize.nblk = s.nblk := (rfl)
@[simp] theorem State.serialize_cnt : s.serialize.cnt = s.cnt := (rfl)
@[simp] theorem State.serialize_lenlo : s.serialize.lenlo = s.lenlo := (rfl)
@[simp] theorem State.serialize_lenhi : s.serialize.lenhi = s.lenhi := (rfl)
@[simp] theorem State.serialize_buf : s.serialize.buf = storeWord (storeWord (storeWord (storeWord s.buf 0 s.acc.w0) 4 s.acc.w1) 8 s.acc.w2) 12 s.acc.w3 := (rfl)
@[simp] theorem State.serialize_seq : s.serialize.seq = s.seq := (rfl)
@[simp] theorem State.serialize_input : s.serialize.input = s.input := (rfl)
@[simp] theorem State.serialize_rsp : s.serialize.rsp = s.rsp := (rfl)
@[simp] theorem State.serialize_folds : s.serialize.folds = s.folds := (rfl)

/-! `State.markDone` -/

@[simp] theorem State.markDone_acc : s.markDone.acc = s.acc := (rfl)
@[simp] theorem State.markDone_work : s.markDone.work = s.work := (rfl)
@[simp] theorem State.markDone_stepReg : s.markDone.stepReg = s.stepReg := (rfl)
@[simp] theorem State.markDone_phase : s.markDone.phase = .done := (rfl)
@[simp] theorem State.markDone_cause : s.markDone.cause = s.cause := (rfl)
@[simp] theorem State.markDone_nblk : s.markDone.nblk = s.nblk := (rfl)
@[simp] theorem State.markDone_cnt : s.markDone.cnt = s.cnt := (rfl)
@[simp] theorem State.markDone_lenlo : s.markDone.lenlo = s.lenlo := (rfl)
@[simp] theorem State.markDone_lenhi : s.markDone.lenhi = s.lenhi := (rfl)
@[simp] theorem State.markDone_buf : s.markDone.buf = s.buf := (rfl)
@[simp] theorem State.markDone_seq : s.markDone.seq = s.seq := (rfl)
@[simp] theorem State.markDone_input : s.markDone.input = s.input := (rfl)
@[simp] theorem State.markDone_rsp : s.markDone.rsp = s.rsp := (rfl)
@[simp] theorem State.markDone_folds : s.markDone.folds = s.folds := (rfl)

/-! `State.enterFold` -/

@[simp] theorem State.enterFold_acc (ret : Seq) : (s.enterFold ret).acc = s.acc := (rfl)
@[simp] theorem State.enterFold_work (ret : Seq) : (s.enterFold ret).work = workingOf s.acc := (rfl)
@[simp] theorem State.enterFold_stepReg (ret : Seq) : (s.enterFold ret).stepReg = 0 := (rfl)
@[simp] theorem State.enterFold_phase (ret : Seq) : (s.enterFold ret).phase = s.phase := (rfl)
@[simp] theorem State.enterFold_cause (ret : Seq) : (s.enterFold ret).cause = s.cause := (rfl)
@[simp] theorem State.enterFold_nblk (ret : Seq) : (s.enterFold ret).nblk = s.nblk := (rfl)
@[simp] theorem State.enterFold_cnt (ret : Seq) : (s.enterFold ret).cnt = s.cnt := (rfl)
@[simp] theorem State.enterFold_lenlo (ret : Seq) : (s.enterFold ret).lenlo = s.lenlo := (rfl)
@[simp] theorem State.enterFold_lenhi (ret : Seq) : (s.enterFold ret).lenhi = s.lenhi := (rfl)
@[simp] theorem State.enterFold_buf (ret : Seq) : (s.enterFold ret).buf = s.buf := (rfl)
@[simp] theorem State.enterFold_seq (ret : Seq) : (s.enterFold ret).seq = ret := (rfl)
@[simp] theorem State.enterFold_input (ret : Seq) : (s.enterFold ret).input = s.input := (rfl)
@[simp] theorem State.enterFold_rsp (ret : Seq) : (s.enterFold ret).rsp = s.rsp := (rfl)
@[simp] theorem State.enterFold_folds (ret : Seq) : (s.enterFold ret).folds = s.folds := (rfl)

/-! `State.fold` and `State.flush` -/

@[simp] theorem State.fold_acc : s.fold.acc = foldAcc s.acc s.buf := (rfl)
@[simp] theorem State.fold_work : s.fold.work = ⟨Config.freeWord s.folds 0, Config.freeWord s.folds 1, Config.freeWord s.folds 2, Config.freeWord s.folds 3⟩ := (rfl)
@[simp] theorem State.fold_stepReg : s.fold.stepReg = Config.freeStep s.folds := (rfl)
@[simp] theorem State.fold_phase : s.fold.phase = s.phase := (rfl)
@[simp] theorem State.fold_cause : s.fold.cause = s.cause := (rfl)
@[simp] theorem State.fold_nblk : s.fold.nblk = s.nblk := (rfl)
@[simp] theorem State.fold_cnt : s.fold.cnt = s.cnt := (rfl)
@[simp] theorem State.fold_lenlo : s.fold.lenlo = s.lenlo := (rfl)
@[simp] theorem State.fold_lenhi : s.fold.lenhi = s.lenhi := (rfl)
@[simp] theorem State.fold_buf : s.fold.buf = s.buf := (rfl)
@[simp] theorem State.fold_seq : s.fold.seq = s.seq := (rfl)
@[simp] theorem State.fold_input : s.fold.input = s.input := (rfl)
@[simp] theorem State.fold_rsp : s.fold.rsp = s.rsp := (rfl)
@[simp] theorem State.fold_folds : s.fold.folds = s.folds + 1 := (rfl)
@[simp] theorem State.flush_acc : s.flush.acc = foldAcc s.acc s.buf := (rfl)
@[simp] theorem State.flush_work : s.flush.work = ⟨Config.freeWord s.folds 0, Config.freeWord s.folds 1, Config.freeWord s.folds 2, Config.freeWord s.folds 3⟩ := (rfl)
@[simp] theorem State.flush_stepReg : s.flush.stepReg = Config.freeStep s.folds := (rfl)
@[simp] theorem State.flush_phase : s.flush.phase = s.phase := (rfl)
@[simp] theorem State.flush_cause : s.flush.cause = s.cause := (rfl)
@[simp] theorem State.flush_nblk : s.flush.nblk = add32 s.nblk 1 := (rfl)
@[simp] theorem State.flush_cnt : s.flush.cnt = 0 := (rfl)
@[simp] theorem State.flush_lenlo : s.flush.lenlo = s.lenlo := (rfl)
@[simp] theorem State.flush_lenhi : s.flush.lenhi = s.lenhi := (rfl)
@[simp] theorem State.flush_buf : s.flush.buf = s.buf := (rfl)
@[simp] theorem State.flush_seq : s.flush.seq = s.seq := (rfl)
@[simp] theorem State.flush_input : s.flush.input = s.input := (rfl)
@[simp] theorem State.flush_rsp : s.flush.rsp = s.rsp := (rfl)
@[simp] theorem State.flush_folds : s.flush.folds = s.folds + 1 := (rfl)

end Sys2Proof.Machine
end

