-- ==== Sys2Proof/Laws/Fold.lean ====
section
/-! SUPPORT. A fold computes what the spec's tables say: the step template of every row, and FOLD as a function of the
accumulators and the 64 bytes of the block (spec/42_compression.md R180 to R193). -/

namespace Sys2Proof.Machine

open Sys2Proof

/-! ### One step -/

/-- The rotation of R9, a sum of two shifts, is the rotation of R194, for the amounts of the schedule. -/
theorem rotl32_eq_rotateLeft (x : Word) (n : Nat) (h1 : 1 ≤ n) (h2 : n ≤ 31) : rotl32 x n = x.rotateLeft n := by
  have disjoint : (x <<< n) &&& (x >>> (32 - n)) = 0#32 := by
    ext i hi
    by_cases hn : i < n
    · simp [hn]
    · have : 32 ≤ 32 - n + i := by omega
      simp [BitVec.getLsbD_of_ge x _ this]
  rw [rotl32, shl32, shr32, BitVec.add_eq_or_of_and_eq_zero _ _ disjoint, BitVec.rotateLeft_eq_rotateLeftAux_of_lt (by omega)]
  rfl

/-- The round function of row `i` is F_r of R192. -/
theorem roundFn_r1 : roundFn .r1 = specF1 := rfl
theorem roundFn_r2 : roundFn .r2 = specF2 := by
  funext b c d
  exact congrArg (c ^^^ ·) (congrArg (d &&& ·) rfl)
theorem roundFn_r3 : roundFn .r3 = specF3 := rfl
theorem roundFn_r4 : roundFn .r4 = specF4 := by
  funext b c d
  simp only [roundFn, roundF4, specF4, xor32, or32, not32]
  congr 2
  exact BitVec.xor_allOnes

/-- A row's step is the step template of R185 with the row's own round function, constant and rotation. -/
theorem stepRoles_eq_specRoles (row : Row) (x : Word) (w : Working) (h1 : 1 ≤ row.s) (h2 : row.s ≤ 31) :
    stepRoles row x w = specRoles (roundFn row.round) x row.k row.s w := by
  rw [stepRoles, stepNext, specRoles, rotl32_eq_rotateLeft _ _ h1 h2]
  rfl

/-- The message word through the little-endian view of R64. -/
theorem messageWord_eq_specWord (m : Buffer) (g : Nat) : messageWord m g = specWord m g := by
  apply BitVec.eq_of_toNat_eq
  rw [messageWord_toNat, specWord]
  have h0 := (bufRead m (4 * g)).isLt
  have h1 := (bufRead m (4 * g + 1)).isLt
  have h2 := (bufRead m (4 * g + 2)).isLt
  have h3 := (bufRead m (4 * g + 3)).isLt
  generalize bufRead m (4 * g) = b0 at *
  generalize bufRead m (4 * g + 1) = b1 at *
  generalize bufRead m (4 * g + 2) = b2 at *
  generalize bufRead m (4 * g + 3) = b3 at *
  have e0 : (b0.setWidth 32).toNat = b0.toNat := by rw [BitVec.toNat_setWidth]; omega
  have e1 : (b1.setWidth 32 * 0x100#32).toNat = b1.toNat * 256 := by
    rw [BitVec.toNat_mul, BitVec.toNat_setWidth, BitVec.toNat_ofNat]; omega
  have e2 : (b2.setWidth 32 * 0x10000#32).toNat = b2.toNat * 65536 := by
    rw [BitVec.toNat_mul, BitVec.toNat_setWidth, BitVec.toNat_ofNat]; omega
  have e3 : (b3.setWidth 32 * 0x1000000#32).toNat = b3.toNat * 16777216 := by
    rw [BitVec.toNat_mul, BitVec.toNat_setWidth, BitVec.toNat_ofNat]; omega
  rw [BitVec.toNat_add, BitVec.toNat_add, BitVec.toNat_add, e0, e1, e2, e3]
  omega

/-- Every row of the schedule is row `i` of the tables of R196 to R198. -/
theorem scheduleRow_tables : ∀ i : Fin 64,
    (scheduleRow (BitVec.ofNat 6 i)).g = tableG i ∧ (scheduleRow (BitVec.ofNat 6 i)).s = tableS i ∧
    (scheduleRow (BitVec.ofNat 6 i)).k = tableK.getD i 0 ∧
    (scheduleRow (BitVec.ofNat 6 i)).round
      = (if i.val / 16 = 0 then .r1 else if i.val / 16 = 1 then .r2 else if i.val / 16 = 2 then .r3 else .r4) ∧
    1 ≤ tableS i ∧ tableS i ≤ 31 ∧ tableG i < 16 := by
  decide +kernel

/-- The round function of row `i` is that of R192. -/
theorem roundFn_scheduleRow (i : Fin 64) : roundFn (scheduleRow (BitVec.ofNat 6 i)).round = specF i := by
  rw [(scheduleRow_tables i).2.2.2.1]
  funext b c d
  unfold specF
  split_ifs
  · rw [roundFn_r1]
  · rw [roundFn_r2]
  · rw [roundFn_r3]
  · rw [roundFn_r4]

/-- Row `i` does step `i` of the tables. -/
theorem stepRoles_scheduleRow (i : Fin 64) (x : Word) (w : Working) :
    stepRoles (scheduleRow (BitVec.ofNat 6 i)) x w = specStep i x w := by
  obtain ⟨-, hs, hk, -, h1, h2, -⟩ := scheduleRow_tables i
  rw [stepRoles_eq_specRoles _ _ _ (hs ▸ h1) (hs ▸ h2), roundFn_scheduleRow, hs, hk]
  rfl

/-! ### The whole fold -/

/-- The rows of the schedule, one by one. -/
theorem scheduleRows_eq_map : scheduleRows = (List.range' 0 64).map fun i => scheduleRow (BitVec.ofNat 6 i) := by
  decide +kernel

/-- A byte of the first `n` bytes of the buffer. -/
theorem bufBytes_getD (m : Buffer) (n a : Nat) (h : a < n) : (bufBytes m n).getD a 0 = bufRead m a := by
  simp [bufBytes, h]

theorem bufBytes_length (m : Buffer) (n : Nat) : (bufBytes m n).length = n := by simp [bufBytes]

/-- The message words of the buffer are those of its 64 bytes as a block. -/
theorem messageWord_eq_blockWord (m : Buffer) (g : Nat) (h : g < 16) : messageWord m g = blockWord (bufBytes m 64) g := by
  rw [messageWord_eq_specWord, specWord, blockWord, bufBytes_getD _ _ _ (by omega), bufBytes_getD _ _ _ (by omega),
    bufBytes_getD _ _ _ (by omega), bufBytes_getD _ _ _ (by omega)]

/-- The rows from `i` on do the steps of the tables from `i` on. -/
theorem foldRows_eq_specSteps (m : Buffer) (n : Nat) : ∀ (i : Nat) (w : Working), i + n ≤ 64 →
    foldRows m ((List.range' i n).map fun i => scheduleRow (BitVec.ofNat 6 i)) w = specSteps (bufBytes m 64) n i w := by
  induction n with
  | zero => intro i w _; rw [List.range'_zero, List.map_nil, foldRows, specSteps]
  | succ n ih =>
    intro i w h
    obtain ⟨hg, -, -, -, -, -, hlt⟩ := scheduleRow_tables ⟨i, by omega⟩
    rw [List.range'_succ, List.map_cons, foldRows, ih _ _ (by omega), stepRoles_scheduleRow ⟨i, by omega⟩, hg,
      messageWord_eq_blockWord _ _ hlt, specSteps]

/-- FOLD is the fold of the spec's tables over the 64 bytes of the buffer (R180, R193). -/
theorem foldAcc_eq_specFold (acc : Accumulators) (m : Buffer) : foldAcc acc m = specFold acc (bufBytes m 64) := by
  rw [foldAcc, scheduleRows_eq_map, foldRows_eq_specSteps m 64 0 _ le_rfl, addInto, workingOf, specFold]
  simp only [add32]

/-- Buffers with the same 64 bytes fold alike. -/
theorem foldAcc_congr (acc : Accumulators) (m m' : Buffer) (h : ∀ a, a < 64 → bufRead m a = bufRead m' a) :
    foldAcc acc m = foldAcc acc m' := by
  have e : bufBytes m 64 = bufBytes m' 64 := List.map_congr_left fun a ha => h a (List.mem_range.mp ha)
  rw [foldAcc_eq_specFold, foldAcc_eq_specFold, e]

end Sys2Proof.Machine
end

