-- ==== Sys2Proof/Laws/Commands.lean ====
section
/-! SUPPORT. What the shared operations of the commands can do, once each: dispatch, the store at CNT, padding, the length
and the digest in the buffer, and what `exec` and `step` can answer. -/

namespace Sys2Proof.Machine

/-! ### Dispatch -/

/-- Everything dispatch can do (R120): run the body, enter a violation, or do nothing but drop the response. -/
theorem dispatch_cases (c : CommandClass) (body : State → Result) (s : State) :
    (legality c s.phase = .runs ∧ dispatch c body s = body s.silent) ∨
    (∃ k, legality c s.phase = .violates k ∧ dispatch c body s = .next (s.silent.violation k)) ∨
    (legality c s.phase = .ignored ∧ dispatch c body s = .next s.silent) := by
  unfold dispatch
  split <;> simp_all

theorem dispatch_of_runs {c : CommandClass} {s : State} (body : State → Result) (h : legality c s.phase = .runs) :
    dispatch c body s = body s.silent := by rw [dispatch, h]

theorem dispatch_of_violates {c : CommandClass} {s : State} {k : Violation} (body : State → Result)
    (h : legality c s.phase = .violates k) : dispatch c body s = .next (s.silent.violation k) := by rw [dispatch, h]

theorem dispatch_of_ignored {c : CommandClass} {s : State} (body : State → Result) (h : legality c s.phase = .ignored) :
    dispatch c body s = .next s.silent := by rw [dispatch, h]

/-- A command is ignored exactly in FAULT (R276). -/
theorem legality_ignored (c : CommandClass) (p : Phase) : legality c p = .ignored ↔ p = .fault := by
  cases c <;> cases p <;> decide

/-- A violation is raised outside FAULT only (R278). -/
theorem legality_violates (c : CommandClass) (p : Phase) (k : Violation) (h : legality c p = .violates k) : p ≠ .fault := by
  rintro rfl
  rw [(legality_ignored c .fault).mpr rfl] at h
  cases h

/-- The phases in which each command runs (R121). -/
theorem legality_runs (c : CommandClass) (p : Phase) (h : legality c p = .runs) :
    (c = .init ∧ p ≠ .fault) ∨ (c = .write ∧ p = .absorb) ∨ (c = .final ∧ p = .absorb) ∨ (c = .read ∧ p = .done) := by
  revert h; cases c <;> cases p <;> decide

theorem Violation.code_range (k : Violation) : 1 ≤ k.code.toNat ∧ k.code.toNat ≤ 5 := by cases k <;> decide

theorem Violation.code_ne_zero (k : Violation) : k.code ≠ 0 := by cases k <;> decide

/-! ### The store at CNT -/

theorem storeAtCnt_of_lt (v : Byte) (s : State) (h : s.cnt.toNat < 64) :
    storeAtCnt v s = .next { s with buf := bufWrite s.buf s.cnt.toNat v, cnt := s.cnt + 1 } := by
  rw [storeAtCnt, Config.blockBytes, if_pos h]

theorem storeAtCnt_of_ge (v : Byte) (s : State) (h : 64 ≤ s.cnt.toNat) :
    storeAtCnt v s = .fault (.bufferAddress s.cnt.toNat) := by
  rw [storeAtCnt, Config.blockBytes, if_neg (by omega)]

/-- If the store answers a next state, CNT was an address and the byte is there. -/
theorem storeAtCnt_next {v : Byte} {s t : State} (h : storeAtCnt v s = .next t) :
    s.cnt.toNat < 64 ∧ t = { s with buf := bufWrite s.buf s.cnt.toNat v, cnt := s.cnt + 1 } := by
  by_cases hc : s.cnt.toNat < 64
  · rw [storeAtCnt_of_lt v s hc] at h
    exact ⟨hc, (Host.Outcome.next.inj h).symm⟩
  · rw [storeAtCnt_of_ge v s (by omega)] at h
    cases h

@[simp] theorem andThen_next (s : State) (f : State → State) : andThen (.next s) f = .next (f s) := rfl

@[simp] theorem andThen_fault (e : Fault) (f : State → State) : andThen (.fault e) f = .fault e := rfl

/-- A continued meaning answers a next state only through one of the operation before it. -/
theorem andThen_eq_next {r : Result} {f : State → State} {t : State} (h : andThen r f = .next t) :
    ∃ u, r = .next u ∧ t = f u := by
  cases r with
  | next u => exact ⟨u, rfl, (Host.Outcome.next.inj h).symm⟩
  | fault e => cases h
  | refused e => cases h

/-! ### The meanings, in the phases where they run -/

/-- INIT runs in every phase but FAULT (R121). -/
theorem exec_init_runs (s : State) (h : s.phase ≠ .fault) : exec .init s = .next s.silent.initialise := by
  have hl : legality .init s.phase = .runs := by cases hp : s.phase <;> simp_all [legality]
  change execInit s = _
  rw [execInit, dispatch_of_runs _ hl]

/-- WRITE runs in ABSORB (R121). -/
theorem exec_write_runs (data : Byte) (s : State) (h : s.phase = .absorb) :
    exec (.write data) s = andThen (storeAtCnt data s.silent) State.flushIfFull := by
  change execWrite data s = _
  rw [execWrite, dispatch_of_runs _ (by rw [h]; rfl)]

/-- FINAL runs in ABSORB (R121). -/
theorem exec_final_runs (s : State) (h : s.phase = .absorb) :
    exec .final s = andThen (storeAtCnt Config.padMarker s.silent.flushPending.latchLength)
      fun s => s.padZeros.finishFinal := by
  change execFinal s = _
  rw [execFinal, dispatch_of_runs _ (by rw [h]; rfl)]

/-- READ runs in DONE (R121). -/
theorem exec_read_runs (idx : BitVec 4) (s : State) (h : s.phase = .done) :
    exec (.read idx) s = .next (s.silent.respond (bufRead s.buf idx.toNat)) := by
  change execRead idx s = _
  rw [execRead, dispatch_of_runs _ (by rw [h]; rfl)]
  rfl

theorem exec_write_violates (data : Byte) (s : State) (k : Violation) (h : legality .write s.phase = .violates k) :
    exec (.write data) s = .next (s.silent.violation k) := by
  change execWrite data s = _
  rw [execWrite, dispatch_of_violates _ h]

theorem exec_final_violates (s : State) (k : Violation) (h : legality .final s.phase = .violates k) :
    exec .final s = .next (s.silent.violation k) := by
  change execFinal s = _
  rw [execFinal, dispatch_of_violates _ h]

theorem exec_read_violates (idx : BitVec 4) (s : State) (k : Violation) (h : legality .read s.phase = .violates k) :
    exec (.read idx) s = .next (s.silent.violation k) := by
  change execRead idx s = _
  rw [execRead, dispatch_of_violates _ h]

theorem execReserved_violates (s : State) (h : s.phase ≠ .fault) :
    execReserved s = .next (s.silent.violation .reserved) := by
  have hl : legality .reserved s.phase = .violates .reserved := by cases hp : s.phase <;> simp_all [legality]
  rw [execReserved, dispatch_of_violates _ hl]

/-- In FAULT every command is ignored (R276). -/
theorem exec_init_fault (s : State) (h : s.phase = .fault) : exec .init s = .next s.silent := by
  change execInit s = _
  rw [execInit, dispatch_of_ignored _ ((legality_ignored _ _).mpr h)]

theorem exec_write_fault (data : Byte) (s : State) (h : s.phase = .fault) : exec (.write data) s = .next s.silent := by
  change execWrite data s = _
  rw [execWrite, dispatch_of_ignored _ ((legality_ignored _ _).mpr h)]

theorem exec_final_fault (s : State) (h : s.phase = .fault) : exec .final s = .next s.silent := by
  change execFinal s = _
  rw [execFinal, dispatch_of_ignored _ ((legality_ignored _ _).mpr h)]

theorem exec_read_fault (idx : BitVec 4) (s : State) (h : s.phase = .fault) : exec (.read idx) s = .next s.silent := by
  change execRead idx s = _
  rw [execRead, dispatch_of_ignored _ ((legality_ignored _ _).mpr h)]

theorem execReserved_fault (s : State) (h : s.phase = .fault) : execReserved s = .next s.silent := by
  rw [execReserved, dispatch_of_ignored _ ((legality_ignored _ _).mpr h)]

/-! ### What a command can answer -/

/-- Everything `INIT` can answer. -/
theorem exec_init_cases {s t : State} (h : exec .init s = .next t) :
    (s.phase = .fault ∧ t = s.silent) ∨ (s.phase ≠ .fault ∧ t = s.silent.initialise) := by
  by_cases hp : s.phase = .fault
  · rw [exec_init_fault s hp] at h
    exact .inl ⟨hp, (Host.Outcome.next.inj h).symm⟩
  · rw [exec_init_runs s hp] at h
    exact .inr ⟨hp, (Host.Outcome.next.inj h).symm⟩

/-- Everything `WRITE` can answer. -/
theorem exec_write_cases {data : Byte} {s t : State} (h : exec (.write data) s = .next t) :
    (s.phase = .fault ∧ t = s.silent) ∨ (s.phase = .uninit ∧ t = s.silent.violation .uninit) ∨
    (s.phase = .done ∧ t = s.silent.violation .writeAfterFinal) ∨
    (s.phase = .absorb ∧ s.cnt.toNat < 64 ∧
      t = { s.silent with buf := bufWrite s.buf s.cnt.toNat data, cnt := s.cnt + 1 }.flushIfFull) := by
  cases hp : s.phase
  · rw [exec_write_violates data s .uninit (by rw [hp]; rfl)] at h
    exact .inr (.inl ⟨rfl, (Host.Outcome.next.inj h).symm⟩)
  · rw [exec_write_runs data s hp] at h
    obtain ⟨u, hu, rfl⟩ := andThen_eq_next h
    obtain ⟨h1, rfl⟩ := storeAtCnt_next hu
    exact .inr (.inr (.inr ⟨rfl, h1, rfl⟩))
  · rw [exec_write_violates data s .writeAfterFinal (by rw [hp]; rfl)] at h
    exact .inr (.inr (.inl ⟨rfl, (Host.Outcome.next.inj h).symm⟩))
  · rw [exec_write_fault data s hp] at h
    exact .inl ⟨rfl, (Host.Outcome.next.inj h).symm⟩

/-- Everything `FINAL` can answer. -/
theorem exec_final_cases {s t : State} (h : exec .final s = .next t) :
    (s.phase = .fault ∧ t = s.silent) ∨ (s.phase = .uninit ∧ t = s.silent.violation .uninit) ∨
    (s.phase = .done ∧ t = s.silent.violation .finalTwice) ∨
    (s.phase = .absorb ∧ ∃ u, storeAtCnt Config.padMarker s.silent.flushPending.latchLength = .next u ∧
      t = u.padZeros.finishFinal) := by
  cases hp : s.phase
  · rw [exec_final_violates s .uninit (by rw [hp]; rfl)] at h
    exact .inr (.inl ⟨rfl, (Host.Outcome.next.inj h).symm⟩)
  · rw [exec_final_runs s hp] at h
    obtain ⟨u, hu, rfl⟩ := andThen_eq_next h
    exact .inr (.inr (.inr ⟨rfl, u, hu, rfl⟩))
  · rw [exec_final_violates s .finalTwice (by rw [hp]; rfl)] at h
    exact .inr (.inr (.inl ⟨rfl, (Host.Outcome.next.inj h).symm⟩))
  · rw [exec_final_fault s hp] at h
    exact .inl ⟨rfl, (Host.Outcome.next.inj h).symm⟩

/-- Everything `READ` can answer. -/
theorem exec_read_cases {idx : BitVec 4} {s t : State} (h : exec (.read idx) s = .next t) :
    (s.phase = .fault ∧ t = s.silent) ∨ (s.phase = .uninit ∧ t = s.silent.violation .uninit) ∨
    (s.phase = .absorb ∧ t = s.silent.violation .readBeforeFinal) ∨
    (s.phase = .done ∧ t = s.silent.respond (bufRead s.buf idx.toNat)) := by
  cases hp : s.phase
  · rw [exec_read_violates idx s .uninit (by rw [hp]; rfl)] at h
    exact .inr (.inl ⟨rfl, (Host.Outcome.next.inj h).symm⟩)
  · rw [exec_read_violates idx s .readBeforeFinal (by rw [hp]; rfl)] at h
    exact .inr (.inr (.inl ⟨rfl, (Host.Outcome.next.inj h).symm⟩))
  · rw [exec_read_runs idx s hp] at h
    exact .inr (.inr (.inr ⟨rfl, (Host.Outcome.next.inj h).symm⟩))
  · rw [exec_read_fault idx s hp] at h
    exact .inl ⟨rfl, (Host.Outcome.next.inj h).symm⟩

/-- Everything a reserved word can answer. -/
theorem execReserved_cases {s t : State} (h : execReserved s = .next t) :
    (s.phase = .fault ∧ t = s.silent) ∨ (s.phase ≠ .fault ∧ t = s.silent.violation .reserved) := by
  by_cases hp : s.phase = .fault
  · rw [execReserved_fault s hp] at h
    exact .inl ⟨hp, (Host.Outcome.next.inj h).symm⟩
  · rw [execReserved_violates s hp] at h
    exact .inr ⟨hp, (Host.Outcome.next.inj h).symm⟩

/-- What the end of `WRITE` leaves alone. -/
theorem flushIfFull_keeps (s : State) :
    s.flushIfFull.phase = s.phase ∧ s.flushIfFull.cause = s.cause ∧ s.flushIfFull.seq = s.seq ∧
    s.flushIfFull.rsp = s.rsp ∧ s.flushIfFull.buf = s.buf ∧ s.flushIfFull.lenlo = s.lenlo ∧
    s.flushIfFull.lenhi = s.lenhi ∧ s.flushIfFull.input = s.input := by
  unfold State.flushIfFull
  split <;> simp

/-- What the start of `FINAL` leaves alone. -/
theorem flushPending_keeps (s : State) :
    s.flushPending.phase = s.phase ∧ s.flushPending.cause = s.cause ∧ s.flushPending.seq = s.seq ∧
    s.flushPending.rsp = s.rsp ∧ s.flushPending.buf = s.buf ∧ s.flushPending.input = s.input := by
  unfold State.flushPending
  split <;> simp

theorem flushPending_of_lt (s : State) (h : s.cnt.toNat < 64) : s.flushPending = s := by
  rw [State.flushPending, if_neg]
  intro hs
  rw [hs] at h
  exact absurd h (by decide)

/-- Below 64 the 7-bit CNT advances without wrapping. -/
theorem cnt_succ_toNat (c : BitVec 7) (h : c.toNat ≤ 63) : (c + 1).toNat = c.toNat + 1 := by
  rw [BitVec.toNat_add]
  change (c.toNat + 1) % 128 = _
  omega

/-! ### The steps -/

/-- The step that STEP selects, by its row (R185). -/
theorem exec_stepInstr (i : BitVec 6) (s : State) : exec (stepInstr i) s = .next (s.doStep (scheduleRow i)) := by
  have h : ∀ n : Fin 64, exec (stepInstr (BitVec.ofNat 6 n)) s = .next (s.doStep (scheduleRow (BitVec.ofNat 6 n))) := by
    intro n
    fin_cases n <;> rfl
  rw [step_eq_ofNat i]
  exact h ⟨i.toNat, i.isLt⟩

/-- Every instruction is a host command or the step of some value of STEP. -/
theorem instr_cases (i : Instr) :
    i = .init ∨ (∃ d, i = .write d) ∨ i = .final ∨ (∃ x, i = .read x) ∨ ∃ n, i = stepInstr n := by
  cases i
  case init => exact .inl rfl
  case write d => exact .inr (.inl ⟨d, rfl⟩)
  case final => exact .inr (.inr (.inl rfl))
  case read x => exact .inr (.inr (.inr (.inl ⟨x, rfl⟩)))
  all_goals exact .inr (.inr (.inr (.inr ⟨_, (stepInstr_of_encode _ _ rfl).symm⟩)))

end Sys2Proof.Machine
end

