-- ==== Sys2Proof/Laws/Padding.lean ====
section
/-! SUPPORT. The micro-operations of `FINAL`, once each: the length words, the padding, the length field and the digest in
the buffer (spec/41_padding_length.md R151 to R163). -/

namespace Sys2Proof.Machine

/-! ### LENGTH -/

/-- The length words as numbers (R152): what the shifts and the carry of L1 to L8 come to. -/
theorem lengthWords_eq (nblk : Word) (cnt : BitVec 7) (h : cnt.toNat ≤ 64) :
    lengthWords nblk cnt
      = (BitVec.ofNat 32 ((nblk.toNat * 64 + cnt.toNat) * 8),
         BitVec.ofNat 32 ((nblk.toNat * 64 + cnt.toNat) * 8 / 2 ^ 32)) := by
  have hn := nblk.isLt
  have hlo1 : (shl32 nblk 6).toNat = nblk.toNat * 64 % 2 ^ 32 := by
    rw [shl32, BitVec.toNat_shiftLeft, Nat.shiftLeft_eq]
  have hhi1 : (shr32 nblk 26).toNat = nblk.toNat / 2 ^ 26 := by
    rw [shr32, BitVec.toNat_ushiftRight, Nat.shiftRight_eq_div_pow]
  have hz : (zext32 cnt).toNat = cnt.toNat := by
    rw [zext32, BitVec.toNat_setWidth, Nat.mod_eq_of_lt (by omega)]
  have hlo2 : (add32 (shl32 nblk 6) (zext32 cnt)).toNat = (nblk.toNat * 64 + cnt.toNat) % 2 ^ 32 := by
    rw [add32, BitVec.toNat_add, hlo1, hz]; omega
  have hcond : (if add32 (shl32 nblk 6) (zext32 cnt) < shl32 nblk 6 then add32 (shr32 nblk 26) 1 else shr32 nblk 26).toNat
      = (nblk.toNat * 64 + cnt.toNat) / 2 ^ 32 := by
    have hinc : (add32 (shr32 nblk 26) 1).toNat = (nblk.toNat / 2 ^ 26 + 1) % 2 ^ 32 := by
      rw [add32, BitVec.toNat_add, hhi1]; rfl
    rw [apply_ite BitVec.toNat, hinc, hhi1]
    simp only [BitVec.lt_def, hlo2, hlo1]
    split <;> omega
  unfold lengthWords
  simp only
  generalize (if add32 (shl32 nblk 6) (zext32 cnt) < shl32 nblk 6 then add32 (shr32 nblk 26) 1 else shr32 nblk 26) = hi at *
  generalize add32 (shl32 nblk 6) (zext32 cnt) = lo at *
  have disjoint : shl32 hi 3 &&& shr32 lo 29 = 0#32 := by
    ext i hi'
    by_cases h3 : i < 3
    · simp [shl32, h3]
    · have : 32 ≤ 29 + i := by omega
      simp [shr32, BitVec.getLsbD_of_ge lo _ this]
  refine Prod.ext (BitVec.eq_of_toNat_eq ?_) (BitVec.eq_of_toNat_eq ?_)
  · rw [shl32, BitVec.toNat_shiftLeft, Nat.shiftLeft_eq, hlo2, BitVec.toNat_ofNat]; omega
  · rw [or32, ← BitVec.add_eq_or_of_and_eq_zero _ _ disjoint, BitVec.toNat_add, shl32, shr32, BitVec.toNat_shiftLeft,
      BitVec.toNat_ushiftRight, Nat.shiftLeft_eq, Nat.shiftRight_eq_div_pow, hlo2, hcond, BitVec.toNat_ofNat]
    omega

/-! ### Bytes of the padded block -/

/-- The first `n` bytes of a buffer, given one by one. -/
theorem bufBytes_eq (m : Buffer) (n : Nat) (l : List Byte) (hl : l.length = n)
    (h : ∀ a, a < n → bufRead m a = l.getD a 0) : bufBytes m n = l := by
  apply List.ext_getElem
  · rw [bufBytes_length, hl]
  · intro a h1 h2
    have e := h a (by omega)
    rw [List.getD_eq_getElem _ _ h2] at e
    simp [bufBytes, e]

/-- Byte `k` of the low length word is byte `k` of the length. -/
theorem lengthLow_byte (len k : Nat) (h : k < 4) :
    (BitVec.ofNat 32 len).extractLsb' (8 * k) 8 = BitVec.ofNat 8 (len / 256 ^ k) := by
  apply BitVec.eq_of_toNat_eq
  rw [BitVec.extractLsb'_toNat, BitVec.toNat_ofNat, BitVec.toNat_ofNat, Nat.shiftRight_eq_div_pow]
  have : k = 0 ∨ k = 1 ∨ k = 2 ∨ k = 3 := by omega
  rcases this with rfl | rfl | rfl | rfl <;> norm_num <;> omega

/-- Byte `k` of the high length word is byte `k + 4` of the length. -/
theorem lengthHigh_byte (len k : Nat) (h : k < 4) :
    (BitVec.ofNat 32 (len / 2 ^ 32)).extractLsb' (8 * k) 8 = BitVec.ofNat 8 (len / 256 ^ (k + 4)) := by
  rw [lengthLow_byte _ _ h, Nat.div_div_eq_div_mul]
  congr 2
  rw [Nat.pow_add, Nat.mul_comm]
  norm_num

theorem lengthField_length (len : Nat) : (lengthField len).length = 8 := by simp [lengthField]

theorem lengthField_getD (len k : Nat) (h : k < 8) : (lengthField len).getD k 0 = BitVec.ofNat 8 (len / 256 ^ k) := by
  simp [lengthField, h]

/-! ### The micro-operations on the buffer -/

/-- A zero-fill loop of PAD clears CNT up to the limit and nothing else. -/
theorem bufRead_zeroFill (s : State) (limit : BitVec 7) (b : Nat) (h : bufWf s.buf) (hc : s.cnt.toNat ≤ limit.toNat)
    (hl : limit.toNat ≤ 64) :
    bufRead (s.zeroFill limit).buf b = if s.cnt.toNat ≤ b ∧ b < limit.toNat then 0#8 else bufRead s.buf b := by
  rw [State.zeroFill_buf, bufRead_memZero _ _ _ _ h (by omega)]
  congr 2
  rw [Nat.add_sub_cancel' hc]

theorem bufWf_zeroFill (s : State) (limit : BitVec 7) (h : bufWf s.buf) (hc : s.cnt.toNat ≤ limit.toNat)
    (hl : limit.toNat ≤ 64) : bufWf (s.zeroFill limit).buf := by
  rw [State.zeroFill_buf]
  exact bufWf_memZero _ _ _ h (by omega)

/-- P5 of PAD clears bytes 0..55 and nothing else. -/
theorem bufRead_zeroHead (s : State) (b : Nat) (h : bufWf s.buf) :
    bufRead s.zeroHead.buf b = if b < 56 then 0#8 else bufRead s.buf b := by
  rw [State.zeroHead_buf, bufRead_memZero _ _ _ _ h (by omega)]
  simp

theorem bufWf_zeroHead (s : State) (h : bufWf s.buf) : bufWf s.zeroHead.buf := by
  rw [State.zeroHead_buf]
  exact bufWf_memZero _ _ _ h (by omega)

/-- PLACELEN writes the latched length words at 56 and 60 and nothing else. -/
theorem bufRead_placeLen (s : State) (b : Nat) (h : bufWf s.buf) :
    bufRead s.placeLen.buf b
      = if 60 ≤ b ∧ b < 64 then s.lenhi.extractLsb' (8 * (b - 60)) 8
        else if 56 ≤ b ∧ b < 60 then s.lenlo.extractLsb' (8 * (b - 56)) 8
        else bufRead s.buf b := by
  have e : Config.padTarget = 56 := rfl
  rw [State.placeLen_buf, e, bufRead_storeWord _ _ _ _ (bufWf_storeWord _ _ _ h (by omega)) (by omega),
    bufRead_storeWord _ _ _ _ h (by omega)]

theorem bufWf_placeLen (s : State) (h : bufWf s.buf) : bufWf s.placeLen.buf := by
  have e : Config.padTarget = 56 := rfl
  rw [State.placeLen_buf, e]
  exact bufWf_storeWord _ _ _ (bufWf_storeWord _ _ _ h (by omega)) (by omega)

/-- SERIALIZE writes the digest bytes at 0..15 and nothing else. -/
theorem bufRead_serialize (s : State) (b : Nat) (h : bufWf s.buf) :
    bufRead s.serialize.buf b = if b < 16 then digestByte s.acc b else bufRead s.buf b := by
  have w0 := bufWf_storeWord s.buf 0 s.acc.w0 h (by omega)
  have w1 := bufWf_storeWord _ 4 s.acc.w1 w0 (by omega)
  have w2 := bufWf_storeWord _ 8 s.acc.w2 w1 (by omega)
  rw [State.serialize_buf, bufRead_storeWord _ _ _ _ w2 (by omega), bufRead_storeWord _ _ _ _ w1 (by omega),
    bufRead_storeWord _ _ _ _ w0 (by omega), bufRead_storeWord _ _ _ _ h (by omega)]
  by_cases hb : b < 16
  · rw [if_pos hb]
    have : b = 0 ∨ b = 1 ∨ b = 2 ∨ b = 3 ∨ b = 4 ∨ b = 5 ∨ b = 6 ∨ b = 7 ∨ b = 8 ∨ b = 9 ∨ b = 10 ∨ b = 11 ∨ b = 12 ∨
        b = 13 ∨ b = 14 ∨ b = 15 := by omega
    rcases this with rfl | rfl | rfl | rfl | rfl | rfl | rfl | rfl | rfl | rfl | rfl | rfl | rfl | rfl | rfl | rfl <;> rfl
  · rw [if_neg hb, if_neg (by omega), if_neg (by omega), if_neg (by omega), if_neg (by omega)]

theorem bufWf_serialize (s : State) (h : bufWf s.buf) : bufWf s.serialize.buf := by
  rw [State.serialize_buf]
  exact bufWf_storeWord _ _ _ (bufWf_storeWord _ _ _ (bufWf_storeWord _ _ _ (bufWf_storeWord _ _ _ h (by omega))
    (by omega)) (by omega)) (by omega)

/-! ### PAD and the end of FINAL -/

theorem padZeros_one (s : State) (h : s.cnt.toNat ≤ 56) : s.padZeros = s.zeroFill 56 := by
  rw [State.padZeros, if_neg]
  rw [BitVec.lt_def]
  change ¬ 56 < s.cnt.toNat
  omega

theorem padZeros_two (s : State) (h : 56 < s.cnt.toNat) : s.padZeros = (s.zeroFill 64).flush.zeroHead := by
  rw [State.padZeros, if_pos]
  rw [BitVec.lt_def]
  exact h

/-- PAD leaves a canonical buffer with the length field's place next. -/
theorem padZeros_spec (s : State) (h : bufWf s.buf) (hc : s.cnt.toNat ≤ 64) :
    bufWf s.padZeros.buf ∧ s.padZeros.cnt = 56 ∧ s.padZeros.phase = s.phase ∧ s.padZeros.cause = s.cause ∧
    s.padZeros.seq = s.seq ∧ s.padZeros.rsp = s.rsp ∧ s.padZeros.input = s.input ∧ s.padZeros.lenlo = s.lenlo ∧
    s.padZeros.lenhi = s.lenhi := by
  by_cases h56 : s.cnt.toNat ≤ 56
  · rw [padZeros_one s h56]
    exact ⟨bufWf_zeroFill s 56 h h56 (by decide), rfl, rfl, rfl, rfl, rfl, rfl, rfl, rfl⟩
  · rw [padZeros_two s (by omega)]
    refine ⟨bufWf_zeroHead _ ?_, rfl, rfl, rfl, rfl, rfl, rfl, rfl, rfl⟩
    rw [State.flush_buf]
    exact bufWf_zeroFill s 64 h hc (by decide)

/-- The end of FINAL: DONE with CNT 0, the digest of the folded accumulators in bytes 0..15, the block that was folded
last in the other bytes. -/
theorem finishFinal_spec (s : State) (h : bufWf s.buf) :
    bufWf s.finishFinal.buf ∧ s.finishFinal.phase = .done ∧ s.finishFinal.cnt = 0 ∧
    s.finishFinal.acc = specFold s.acc (bufBytes s.placeLen.buf 64) ∧ s.finishFinal.nblk = s.nblk + 1 ∧
    (∀ a, a < 16 → bufRead s.finishFinal.buf a = digestByte s.finishFinal.acc a) ∧
    (∀ a, 16 ≤ a → bufRead s.finishFinal.buf a = bufRead s.placeLen.buf a) := by
  have hw := bufWf_placeLen s h
  refine ⟨bufWf_serialize _ hw, rfl, rfl, foldAcc_eq_specFold _ _, rfl, fun a ha => ?_, fun a ha => ?_⟩
  · exact (bufRead_serialize s.placeLen.flush a hw).trans (if_pos ha)
  · exact (bufRead_serialize s.placeLen.flush a hw).trans (if_neg (by omega))

/-! ### Messages -/

/-- The buffer after the 64th byte. -/
theorem bufBytes_write_last (m : Buffer) (h : bufWf m) (v : Byte) :
    bufBytes (bufWrite m 63 v) 64 = bufBytes m 63 ++ [v] := by
  rw [bufBytes, bufBytes, List.range_succ, List.map_append]
  congr 1
  · apply List.map_congr_left
    intro a ha
    rw [bufRead_bufWrite _ h.1, if_neg (by have := List.mem_range.mp ha; omega)]
  · simp [bufRead_bufWrite _ h.1]

/-- Blocks beyond the first `n` are not folded by `n`. -/
theorem foldBlocks_append (n : Nat) : ∀ (acc : Accumulators) (l x : List Byte), 64 * n ≤ l.length →
    foldBlocks n acc (l ++ x) = foldBlocks n acc l := by
  induction n with
  | zero => intro acc l x _; rw [foldBlocks, foldBlocks]
  | succ n ih =>
    intro acc l x h
    rw [foldBlocks, foldBlocks, List.take_append_of_le_length (by omega), List.drop_append_of_le_length (by omega),
      ih _ _ _ (by rw [List.length_drop]; omega)]

/-- Folding in two runs. -/
theorem foldBlocks_add (m n : Nat) : ∀ (acc : Accumulators) (l : List Byte),
    foldBlocks (m + n) acc l = foldBlocks n (foldBlocks m acc l) (l.drop (64 * m)) := by
  induction m with
  | zero => intro acc l; rw [foldBlocks]; simp
  | succ m ih =>
    intro acc l
    rw [Nat.add_right_comm, foldBlocks, ih, foldBlocks, List.drop_drop, Nat.mul_succ, Nat.add_comm 64]

theorem foldBlocks_one (acc : Accumulators) (l : List Byte) : foldBlocks 1 acc l = specFold acc (l.take 64) := by
  rw [foldBlocks, foldBlocks]

/-- The bytes in the buffer of a state that has absorbed `msg` are the message's last, incomplete block. -/
theorem residual_of_absorbed {msg : List Byte} {s : State} (h : Absorbed msg s) :
    bufBytes s.buf s.cnt.toNat = msg.drop (64 * (msg.length / 64)) := by
  obtain ⟨-, hc, -, hb, -⟩ := h
  apply bufBytes_eq
  · rw [List.length_drop]; omega
  · intro a ha
    rw [hb a (by omega), List.getD_eq_getElem?_getD, List.getD_eq_getElem?_getD, List.getElem?_drop]

/-- The length of the padded message by its three parts (R162). -/
theorem padded_length (msg : List Byte) : (padded msg).length = msg.length + 9 + (119 - msg.length % 64) % 64 := by
  simp [padded, lengthField_length]
  omega

end Sys2Proof.Machine
end

