-- ==== Sys2Proof/Laws/PerInstr.lean ====
section
/-! SUPPORT. The family TableMatch: the encoding of an instruction is selected by the instruction's own row of the opcode
table, `(w AND mask) = match` (spec/30_encoding.md R92, R97). One lemma per constructor. -/

namespace Sys2Proof.Laws.TableMatch

/-- The row of `i` in the opcode table selects the encoding of `i`. -/
def Statement (i : Instr) : Prop := (tableRow i).selects (encode i) = true

theorem init : Statement .init := by unfold Statement; decide

theorem write (data : Byte) : Statement (.write data) := by
  have h : ∀ v : Byte, 256#10 + v.setWidth 10 &&& 768#10 = 256#10 := by decide +kernel
  simp [Statement, tableRow, encode, TableRow.selects, h data]

theorem final : Statement .final := by unfold Statement; decide

theorem read (idx : BitVec 4) : Statement (.read idx) := by
  have h : ∀ v : BitVec 4, 768#10 + v.setWidth 10 &&& 1008#10 = 768#10 := by decide +kernel
  simp [Statement, tableRow, encode, TableRow.selects, h idx]

theorem s00 : Statement .s00 := by unfold Statement; decide
theorem s01 : Statement .s01 := by unfold Statement; decide
theorem s02 : Statement .s02 := by unfold Statement; decide
theorem s03 : Statement .s03 := by unfold Statement; decide
theorem s04 : Statement .s04 := by unfold Statement; decide
theorem s05 : Statement .s05 := by unfold Statement; decide
theorem s06 : Statement .s06 := by unfold Statement; decide
theorem s07 : Statement .s07 := by unfold Statement; decide
theorem s08 : Statement .s08 := by unfold Statement; decide
theorem s09 : Statement .s09 := by unfold Statement; decide
theorem s10 : Statement .s10 := by unfold Statement; decide
theorem s11 : Statement .s11 := by unfold Statement; decide
theorem s12 : Statement .s12 := by unfold Statement; decide
theorem s13 : Statement .s13 := by unfold Statement; decide
theorem s14 : Statement .s14 := by unfold Statement; decide
theorem s15 : Statement .s15 := by unfold Statement; decide
theorem s16 : Statement .s16 := by unfold Statement; decide
theorem s17 : Statement .s17 := by unfold Statement; decide
theorem s18 : Statement .s18 := by unfold Statement; decide
theorem s19 : Statement .s19 := by unfold Statement; decide
theorem s20 : Statement .s20 := by unfold Statement; decide
theorem s21 : Statement .s21 := by unfold Statement; decide
theorem s22 : Statement .s22 := by unfold Statement; decide
theorem s23 : Statement .s23 := by unfold Statement; decide
theorem s24 : Statement .s24 := by unfold Statement; decide
theorem s25 : Statement .s25 := by unfold Statement; decide
theorem s26 : Statement .s26 := by unfold Statement; decide
theorem s27 : Statement .s27 := by unfold Statement; decide
theorem s28 : Statement .s28 := by unfold Statement; decide
theorem s29 : Statement .s29 := by unfold Statement; decide
theorem s30 : Statement .s30 := by unfold Statement; decide
theorem s31 : Statement .s31 := by unfold Statement; decide
theorem s32 : Statement .s32 := by unfold Statement; decide
theorem s33 : Statement .s33 := by unfold Statement; decide
theorem s34 : Statement .s34 := by unfold Statement; decide
theorem s35 : Statement .s35 := by unfold Statement; decide
theorem s36 : Statement .s36 := by unfold Statement; decide
theorem s37 : Statement .s37 := by unfold Statement; decide
theorem s38 : Statement .s38 := by unfold Statement; decide
theorem s39 : Statement .s39 := by unfold Statement; decide
theorem s40 : Statement .s40 := by unfold Statement; decide
theorem s41 : Statement .s41 := by unfold Statement; decide
theorem s42 : Statement .s42 := by unfold Statement; decide
theorem s43 : Statement .s43 := by unfold Statement; decide
theorem s44 : Statement .s44 := by unfold Statement; decide
theorem s45 : Statement .s45 := by unfold Statement; decide
theorem s46 : Statement .s46 := by unfold Statement; decide
theorem s47 : Statement .s47 := by unfold Statement; decide
theorem s48 : Statement .s48 := by unfold Statement; decide
theorem s49 : Statement .s49 := by unfold Statement; decide
theorem s50 : Statement .s50 := by unfold Statement; decide
theorem s51 : Statement .s51 := by unfold Statement; decide
theorem s52 : Statement .s52 := by unfold Statement; decide
theorem s53 : Statement .s53 := by unfold Statement; decide
theorem s54 : Statement .s54 := by unfold Statement; decide
theorem s55 : Statement .s55 := by unfold Statement; decide
theorem s56 : Statement .s56 := by unfold Statement; decide
theorem s57 : Statement .s57 := by unfold Statement; decide
theorem s58 : Statement .s58 := by unfold Statement; decide
theorem s59 : Statement .s59 := by unfold Statement; decide
theorem s60 : Statement .s60 := by unfold Statement; decide
theorem s61 : Statement .s61 := by unfold Statement; decide
theorem s62 : Statement .s62 := by unfold Statement; decide
theorem s63 : Statement .s63 := by unfold Statement; decide

end Sys2Proof.Laws.TableMatch
end

