-- ==== Sys2Proof/Laws/Sequencer.lean ====
section
/-! SUPPORT. What one step of the machine can do, once (`step_cases`), and that the machine steps of a fold do what the
command's own FOLD does (spec/41_padding_length.md R161, spec/42_compression.md R180). -/

namespace Sys2Proof.Machine

open Sys2Proof

/-! ### One step -/

/-- Inside a fold, with no reset asserted, the row that STEP selects is fetched. -/
theorem fetch_row (s : State) (h : s.seq ≠ .idle) (hr : NoReset s) : fetch s = .row s.stepReg := by
  unfold fetch
  split
  · exact absurd ‹_› (hr _)
  · simp [h]
  · simp [h]

/-- One machine step inside a fold. -/
theorem step_row (s : State) (h : s.seq ≠ .idle) (hr : NoReset s) :
    step s = .next (s.doStep (scheduleRow s.stepReg)).stepDone := by
  rw [step, fetch_row s h hr]
  simp only [exec_stepInstr, andThen_next]

/-- Everything a step can be: the reset event, a step of a fold, no change, or an accepted word. -/
theorem step_cases (s : State) :
    (∃ rest, s.input = .reset :: rest ∧ step s = .next { s with input := rest }.resetEvent) ∨
    (s.seq ≠ .idle ∧ NoReset s ∧ step s = .next (s.doStep (scheduleRow s.stepReg)).stepDone) ∨
    (s.seq = .idle ∧ s.input = [] ∧ step s = .next s) ∨
    (s.seq = .idle ∧ ∃ w rest, s.input = .command w :: rest ∧
      ((∃ e, decodeCommand w = .error e ∧ step s = execReserved { s with input := rest }) ∨
       ∃ i, decodeCommand w = .ok i ∧ step s = exec i { s with input := rest })) := by
  rcases h : s.input with _ | ⟨w | _, rest⟩
  · by_cases hs : s.seq = .idle
    · exact .inr (.inr (.inl ⟨hs, rfl, by rw [step, fetch, h]; simp [hs]⟩))
    · have hn : NoReset s := fun r hr => by rw [h] at hr; cases hr
      exact .inr (.inl ⟨hs, hn, step_row s hs hn⟩)
  · by_cases hs : s.seq = .idle
    · refine .inr (.inr (.inr ⟨hs, _, rest, rfl, ?_⟩))
      cases hd : decodeCommand w with
      | error e => exact .inl ⟨e, rfl, by rw [step, fetch, h]; simp [hs, hd]⟩
      | ok i => exact .inr ⟨i, rfl, by rw [step, fetch, h]; simp [hs, hd]⟩
    · have hn : NoReset s := fun r hr => by rw [h] at hr; cases hr
      exact .inr (.inl ⟨hs, hn, step_row s hs hn⟩)
  · exact .inl ⟨rest, rfl, by rw [step, fetch, h]⟩

/-- The codes of `violationCause` beside the commands the words decode to (R94, R121): it gives a code exactly where the
command, in that phase, is one of `legality`'s violations. -/
theorem violationCause_of_decode (w : BitVec 10) :
    (∀ e, decodeCommand w = .error e → ∀ p : Phase, p ≠ .fault → violationCause p w = some Violation.reserved.code) ∧
    (decodeCommand w = .ok .init → ∀ p : Phase, violationCause p w = none) ∧
    (∀ d, decodeCommand w = .ok (.write d) → violationCause .uninit w = some Violation.uninit.code ∧
      violationCause .absorb w = none ∧ violationCause .done w = some Violation.writeAfterFinal.code) ∧
    (decodeCommand w = .ok .final → violationCause .uninit w = some Violation.uninit.code ∧
      violationCause .absorb w = none ∧ violationCause .done w = some Violation.finalTwice.code) ∧
    (∀ x, decodeCommand w = .ok (.read x) → violationCause .uninit w = some Violation.uninit.code ∧
      violationCause .absorb w = some Violation.readBeforeFinal.code ∧ violationCause .done w = none) := by
  let codes (v : BitVec 10) := (violationCause .uninit v, violationCause .absorb v, violationCause .done v)
  have table : ∀ v : BitVec 10, codes v =
      (match decodeCommand v with
      | .error _ => (some 5, some 5, some 5)
      | .ok .init => (none, none, none)
      | .ok (.write _) => (some 1, none, some 2)
      | .ok .final => (some 1, none, some 3)
      | .ok (.read _) => (some 1, some 4, none)
      | .ok _ => codes v) := by decide +kernel
  have h := table w
  refine ⟨fun e hd p hp => ?_, fun hd p => ?_, fun d hd => ?_, fun hd => ?_, fun x hd => ?_⟩ <;> rw [hd] at h <;>
    obtain ⟨h1, h2, h3⟩ : _ ∧ _ ∧ _ := by simpa [codes] using h
  · cases p
    · exact h1
    · exact h2
    · exact h3
    · exact absurd rfl hp
  · cases p
    · exact h1
    · exact h2
    · exact h3
    · rfl
  all_goals exact ⟨h1, h2, h3⟩

/-- What a step of a fold leaves alone; PHASE may become DONE at step 63 of the last fold of `FINAL`. -/
theorem stepDone_keeps (s : State) :
    s.stepDone.cause = s.cause ∧ s.stepDone.input = s.input ∧ s.stepDone.rsp = s.rsp ∧ s.stepDone.lenlo = s.lenlo ∧
    s.stepDone.lenhi = s.lenhi ∧
    (s.stepDone.phase = s.phase ∨ (s.stepDone.phase = .done ∧ s.seq = .foldToSerialize ∧ s.stepReg = 63)) := by
  unfold State.stepDone State.afterFold
  split
  · split <;> simp_all
  · simp

theorem bufWf_afterFold (s : State) (h : bufWf s.buf) : bufWf s.afterFold.buf := by
  unfold State.afterFold
  split
  · exact h
  · exact h
  · exact bufWf_placeLen _ (bufWf_zeroHead _ h)
  · exact bufWf_serialize _ h

theorem bufWf_stepDone (s : State) (h : bufWf s.buf) : bufWf s.stepDone.buf := by
  unfold State.stepDone
  split
  · exact bufWf_afterFold _ h
  · exact h

/-! ### The steps of a fold -/

/-- Step 63 ends the fold. -/
theorem stepDone_last (s : State) (h : s.stepReg = 63) :
    s.stepDone = s.addBack.releaseWork.countBlock.afterFold := by rw [State.stepDone, if_pos h]

/-- Before step 63 the sequencer only counts. -/
theorem stepDone_count (s : State) (h : s.stepReg ≠ 63) : s.stepDone = { s with stepReg := s.stepReg + 1 } := by
  rw [State.stepDone, if_neg h]

theorem run_succ (n : Nat) (s t : State) (h : step s = .next t) : core.run (n + 1) s = core.run n t := by
  have hc : core.step s = .next t := h
  exact (Host.Core.run.eq_2 core s n).trans (by rw [hc])

/-- From STEP = `i` the `64 - i` remaining machine steps do the remaining rows, the add-back, and what follows a fold. -/
theorem run_rows (n : Nat) : ∀ s : State, s.seq ≠ .idle → NoReset s → s.stepReg.toNat + n = 63 →
    core.run (n + 1) s
      = .next { s with
          work := foldRows s.buf ((List.range' s.stepReg.toNat (n + 1)).map fun i => scheduleRow (BitVec.ofNat 6 i)) s.work
        }.addBack.releaseWork.countBlock.afterFold := by
  induction n with
  | zero =>
    intro s h hr hi
    have h63 : s.stepReg = 63 := BitVec.eq_of_toNat_eq (by simpa using hi)
    have e := step_row s h hr
    rw [stepDone_last _ (by exact h63)] at e
    rw [run_succ _ _ _ e, List.range'_succ, List.map_cons, foldRows, List.range'_zero, List.map_nil, foldRows,
      ← step_eq_ofNat]
    rfl
  | succ n ih =>
    intro s h hr hi
    have h63 : s.stepReg ≠ 63 := by
      intro h63
      rw [h63] at hi
      change 63 + (n + 1) = 63 at hi
      omega
    have e := step_row s h hr
    rw [stepDone_count _ (by exact h63)] at e
    have hn : (s.stepReg + 1).toNat = s.stepReg.toNat + 1 := by
      rw [BitVec.toNat_add]
      change (s.stepReg.toNat + 1) % 64 = _
      omega
    have e' := ih { s.doStep (scheduleRow s.stepReg) with stepReg := s.stepReg + 1 } h hr
      (by change (s.stepReg + 1).toNat + n = 63; omega)
    rw [run_succ _ _ _ e, List.range'_succ, List.map_cons, foldRows, ← step_eq_ofNat, ← hn]
    exact e'

/-- The rows and the end of a fold, entered with a return recorded, are FLUSH with that return still recorded. -/
theorem foldEnd_eq_flush (s : State) (ret : Seq) :
    { s.enterFold ret with
      work := foldRows s.buf scheduleRows (workingOf s.acc) }.addBack.releaseWork.countBlock
        = { s.flush with seq := ret } := by
  have ha : addInto s.acc (foldRows s.buf scheduleRows (workingOf s.acc)) = foldAcc s.acc s.buf := by rw [foldAcc]
  apply State.eq_of_fields <;> simp [ha]

end Sys2Proof.Machine
end

