-- ==== Sys2Proof/Tests/Slice0.lean ====
section
/-! SUPPORT. Tests and witnesses. Every expected value is the spec's: spec/95_test_vectors.md, the examples of the rules, or
the opcode map written out bit by bit. Tests of a whole command are evaluated by the kernel, one step each. A theorem named
`witness_<statement>` shows states and operands that meet the hypotheses of that statement together, one for each clause. -/

namespace Sys2Proof.Tests

open Sys2Proof Sys2Proof.Machine

/-! ### Small states -/

/-- The state after `INIT` (R37, `S0`), from reset. -/
def s0 : State :=
  { State.reset with phase := .absorb, acc := ⟨0x67452301, 0xefcdab89, 0x98badcfe, 0x10325476⟩ }

/-- A buffer whose bytes from `a` on are `l`. -/
def bufOf (a : Nat) : List Byte → Buffer
  | [] => []
  | v :: l => if v = 0 then bufOf (a + 1) l else (a, v) :: bufOf (a + 1) l

/-- `S0` after `c` residual bytes `v`, fewer than 64. -/
def s0Run (c : BitVec 7) (v : Byte) : State := { s0 with buf := bufOf 0 (List.replicate c.toNat v), cnt := c }

/-- `S0` after the bytes of "abc". -/
def s0Abc : State := { s0 with buf := [(0, 0x61), (1, 0x62), (2, 0x63)], cnt := 3 }

/-- The padded message "abc" as the last block (C7), with the working registers of a step. -/
def abcBlock : Buffer := [(0, 0x61), (1, 0x62), (2, 0x63), (3, 0x80), (56, 0x18)]

/-- After `INIT`, `WRITES "abc"`, `FINAL` (example of R124). -/
def abcDone : State :=
  { s0 with
    acc := ⟨0x98500190, 0xb04fd23c, 0x7d3f96d6, 0x727fe128⟩
    nblk := 1
    lenlo := 0x18
    phase := .done
    buf := bufOf 0 [0x90, 0x01, 0x50, 0x98, 0x3c, 0xd2, 0x4f, 0xb0, 0xd6, 0x96, 0x3f, 0x7d, 0x28, 0xe1, 0x7f, 0x72]
      ++ [(56, 0x18)] }

/-- FAULT with cause 3, from `abcDone`. -/
def faulted : State := { abcDone with phase := .fault, cause := 3 }

/-- A test of the next state of an outcome. -/
def onNext (r : Result) (p : State → Bool) : Bool :=
  match r with
  | .next t => p t
  | .fault _ => false
  | .refused _ => false

/-- The next state of an outcome, `s0` where there is none. -/
def nextOf (r : Result) : State :=
  match r with
  | .next t => t
  | .fault _ => s0
  | .refused _ => s0

theorem eq_next_of (r : Result) (h : onNext r (fun _ => true) = true) : r = .next (nextOf r) := by
  cases r with
  | next t => rfl
  | fault e => cases h
  | refused e => cases h

/-! ### Well-formedness and the assembler (R100 to R104) -/

theorem test_wellFormed_refuses :
    (Line.write 256).wellFormed = false ∧ (Line.read 16).wellFormed = false ∧ (Line.rsvd 0x161).wellFormed = false ∧
    (Line.rsvd 0x400).wellFormed = false ∧ (Line.writes [0, 256]).wellFormed = false ∧
    (Line.hash [0x61, 256]).wellFormed = false := by decide

theorem test_wellFormed_accepts :
    (Line.write 255).wellFormed = true ∧ (Line.read 15).wellFormed = true ∧ (Line.rsvd 0x001).wellFormed = true ∧
    (Line.rsvd 0x3FF).wellFormed = true ∧ (Line.writes []).wellFormed = true ∧ Instr.s63.wellFormed = true ∧
    (Instr.write 0xFF).wellFormed = true := by decide

/-- R100: `WRITE 'a'` is `161`, `READ 15` is `30F`, a reserved word stands unchanged. -/
theorem test_assemble_lines :
    assemble .init = [0x000] ∧ assemble (.write 0x61) = [0x161] ∧ assemble .final = [0x200] ∧
    assemble (.read 15) = [0x30F] ∧ assemble (.rsvd 0x3FF) = [0x3FF] ∧ assemble (.writes []) = [] := by decide

/-- The words of program P2 ("abc"). -/
theorem test_assemble_hash :
    assemble (.hash [0x61, 0x62, 0x63])
      = [0x000, 0x161, 0x162, 0x163, 0x200, 0x300, 0x301, 0x302, 0x303, 0x304, 0x305, 0x306, 0x307, 0x308, 0x309, 0x30a,
         0x30b, 0x30c, 0x30d, 0x30e, 0x30f] := by decide

/-! ### Decoding: words written out bit by bit from R92 and R97 -/

/-- `op` 00, operand bits 0000 0000. -/
theorem test_decode_init : decode (.command 0b0000000000) = .ok .init := by decide

/-- `op` 01 and the byte 0110 0001; the byte's own ends. -/
theorem test_decode_write :
    decode (.command 0b0101100001) = .ok (.write 0x61) ∧ decode (.command 0b0110000000) = .ok (.write 0x80) ∧
    decode (.command 0b0111111111) = .ok (.write 0xFF) := by decide

/-- `op` 10, operand bits 0000 0000. -/
theorem test_decode_final : decode (.command 0b1000000000) = .ok .final := by decide

/-- `op` 11, 0000 and the index. -/
theorem test_decode_read :
    decode (.command 0b1100001010) = .ok (.read 10) ∧ decode (.command 0b1100001111) = .ok (.read 15) := by decide

/-- The ends of the three reserved ranges (R94). -/
theorem test_decode_reserved :
    decode (.command 0b0000000001) = .error .initOperand ∧ decode (.command 0b0011111111) = .error .initOperand ∧
    decode (.command 0b1000000001) = .error .finalOperand ∧ decode (.command 0b1011111111) = .error .finalOperand ∧
    decode (.command 0b1100010000) = .error .readIndex ∧ decode (.command 0b1111111111) = .error .readIndex := by decide

/-- C9: of the 1024 words, 274 are instructions and 750 reserved. -/
theorem test_decode_counts :
    ((List.range 1024).filter fun w => (decodeTableWord 16 w).isSome).length = 274 := by decide +kernel

/-- The opcode table's numbering: a command word in two bytes, a STEP value in one. -/
theorem test_decodeTableWord :
    decodeTableWord 16 0x161 = some (.write 0x61) ∧ decodeTableWord 16 0x001 = none ∧ decodeTableWord 16 0x400 = none ∧
    decodeTableWord 8 0b010001 = some .s17 ∧ decodeTableWord 8 64 = none := by decide

/-- STEP[5:4] = 00: the rows of round 1. -/
theorem test_decode_round1 :
    decode (.row 0b000000) = .ok .s00 ∧ decode (.row 0b000001) = .ok .s01 ∧
    decode (.row 0b000010) = .ok .s02 ∧ decode (.row 0b000011) = .ok .s03 ∧
    decode (.row 0b000100) = .ok .s04 ∧ decode (.row 0b000101) = .ok .s05 ∧
    decode (.row 0b000110) = .ok .s06 ∧ decode (.row 0b000111) = .ok .s07 ∧
    decode (.row 0b001000) = .ok .s08 ∧ decode (.row 0b001001) = .ok .s09 ∧
    decode (.row 0b001010) = .ok .s10 ∧ decode (.row 0b001011) = .ok .s11 ∧
    decode (.row 0b001100) = .ok .s12 ∧ decode (.row 0b001101) = .ok .s13 ∧
    decode (.row 0b001110) = .ok .s14 ∧ decode (.row 0b001111) = .ok .s15 := by decide

/-- STEP[5:4] = 01: the rows of round 2. -/
theorem test_decode_round2 :
    decode (.row 0b010000) = .ok .s16 ∧ decode (.row 0b010001) = .ok .s17 ∧
    decode (.row 0b010010) = .ok .s18 ∧ decode (.row 0b010011) = .ok .s19 ∧
    decode (.row 0b010100) = .ok .s20 ∧ decode (.row 0b010101) = .ok .s21 ∧
    decode (.row 0b010110) = .ok .s22 ∧ decode (.row 0b010111) = .ok .s23 ∧
    decode (.row 0b011000) = .ok .s24 ∧ decode (.row 0b011001) = .ok .s25 ∧
    decode (.row 0b011010) = .ok .s26 ∧ decode (.row 0b011011) = .ok .s27 ∧
    decode (.row 0b011100) = .ok .s28 ∧ decode (.row 0b011101) = .ok .s29 ∧
    decode (.row 0b011110) = .ok .s30 ∧ decode (.row 0b011111) = .ok .s31 := by decide

/-- STEP[5:4] = 10: the rows of round 3. -/
theorem test_decode_round3 :
    decode (.row 0b100000) = .ok .s32 ∧ decode (.row 0b100001) = .ok .s33 ∧
    decode (.row 0b100010) = .ok .s34 ∧ decode (.row 0b100011) = .ok .s35 ∧
    decode (.row 0b100100) = .ok .s36 ∧ decode (.row 0b100101) = .ok .s37 ∧
    decode (.row 0b100110) = .ok .s38 ∧ decode (.row 0b100111) = .ok .s39 ∧
    decode (.row 0b101000) = .ok .s40 ∧ decode (.row 0b101001) = .ok .s41 ∧
    decode (.row 0b101010) = .ok .s42 ∧ decode (.row 0b101011) = .ok .s43 ∧
    decode (.row 0b101100) = .ok .s44 ∧ decode (.row 0b101101) = .ok .s45 ∧
    decode (.row 0b101110) = .ok .s46 ∧ decode (.row 0b101111) = .ok .s47 := by decide

/-- STEP[5:4] = 11: the rows of round 4. -/
theorem test_decode_round4 :
    decode (.row 0b110000) = .ok .s48 ∧ decode (.row 0b110001) = .ok .s49 ∧
    decode (.row 0b110010) = .ok .s50 ∧ decode (.row 0b110011) = .ok .s51 ∧
    decode (.row 0b110100) = .ok .s52 ∧ decode (.row 0b110101) = .ok .s53 ∧
    decode (.row 0b110110) = .ok .s54 ∧ decode (.row 0b110111) = .ok .s55 ∧
    decode (.row 0b111000) = .ok .s56 ∧ decode (.row 0b111001) = .ok .s57 ∧
    decode (.row 0b111010) = .ok .s58 ∧ decode (.row 0b111011) = .ok .s59 ∧
    decode (.row 0b111100) = .ok .s60 ∧ decode (.row 0b111101) = .ok .s61 ∧
    decode (.row 0b111110) = .ok .s62 ∧ decode (.row 0b111111) = .ok .s63 := by decide

/-! ### Operations -/

/-- Table C1. -/
theorem test_primitives :
    add32 0xffffffff 0x00000001 = 0x00000000 ∧ add32 0x80000000 0x80000000 = 0x00000000 ∧
    add32 0x67452301 0xefcdab89 = 0x5712ce8a ∧ add32 0x00000000 0x00000000 = 0x00000000 ∧
    add32 0xfffffffe 0x00000001 = 0xffffffff ∧ rotl32 0x80000001 7 = 0x000000c0 ∧
    rotl32 0x12345678 4 = 0x23456781 ∧ rotl32 0xd76aa4f7 7 = 0xb5527beb ∧
    rotl32 0x00000001 23 = 0x00800000 ∧ rotl32 0x80000000 4 = 0x00000008 ∧
    rotl32 0xffffffff 12 = 0xffffffff ∧ rotl32 0x40000000 23 = 0x00200000 ∧
    shl32 0x04000001 6 = 0x00000040 ∧ shr32 0x04000001 26 = 0x00000001 ∧
    shr32 0xfffffff8 29 = 0x00000007 ∧ not32 0x10325476 = 0xefcdab89 ∧
    xor32 0x98badcfe 0x10325476 = 0x88888888 := by decide

/-- Table C2. -/
theorem test_round_functions :
    roundFn .r1 0xefcdab89 0x98badcfe 0x10325476 = 0x98badcfe ∧ roundFn .r1 0x00000000 0x00000000 0x00000000 = 0x00000000 ∧
    roundFn .r1 0xffffffff 0xffffffff 0xffffffff = 0xffffffff ∧ roundFn .r1 0xffffffff 0x00000000 0x00000000 = 0x00000000 ∧
    roundFn .r1 0x00000000 0xffffffff 0x00000000 = 0x00000000 ∧ roundFn .r1 0x00000000 0x00000000 0xffffffff = 0xffffffff ∧
    roundFn .r1 0xa5202774 0xefcdab89 0x98badcfe = 0xbd9afb8a ∧ roundFn .r1 0x12345678 0x9abcdef0 0x0f1e2d3c = 0x1f3e7f74 ∧
    roundFn .r2 0xefcdab89 0x98badcfe 0x10325476 = 0x88888888 ∧ roundFn .r2 0x00000000 0x00000000 0x00000000 = 0x00000000 ∧
    roundFn .r2 0xffffffff 0xffffffff 0xffffffff = 0xffffffff ∧ roundFn .r2 0xffffffff 0x00000000 0x00000000 = 0x00000000 ∧
    roundFn .r2 0x00000000 0xffffffff 0x00000000 = 0xffffffff ∧ roundFn .r2 0x00000000 0x00000000 0xffffffff = 0x00000000 ∧
    roundFn .r2 0xa5202774 0xefcdab89 0x98badcfe = 0xe7652775 ∧ roundFn .r2 0x12345678 0x9abcdef0 0x0f1e2d3c = 0x92b4d6f8 ∧
    roundFn .r3 0xefcdab89 0x98badcfe 0x10325476 = 0x67452301 ∧ roundFn .r3 0x00000000 0x00000000 0x00000000 = 0x00000000 ∧
    roundFn .r3 0xffffffff 0xffffffff 0xffffffff = 0xffffffff ∧ roundFn .r3 0xffffffff 0x00000000 0x00000000 = 0xffffffff ∧
    roundFn .r3 0x00000000 0xffffffff 0x00000000 = 0xffffffff ∧ roundFn .r3 0x00000000 0x00000000 0xffffffff = 0xffffffff ∧
    roundFn .r3 0xa5202774 0xefcdab89 0x98badcfe = 0xd2575003 ∧ roundFn .r3 0x12345678 0x9abcdef0 0x0f1e2d3c = 0x8796a5b4 ∧
    roundFn .r4 0xefcdab89 0x98badcfe 0x10325476 = 0x77777777 ∧ roundFn .r4 0x00000000 0x00000000 0x00000000 = 0xffffffff ∧
    roundFn .r4 0xffffffff 0xffffffff 0xffffffff = 0x00000000 ∧ roundFn .r4 0xffffffff 0x00000000 0x00000000 = 0xffffffff ∧
    roundFn .r4 0x00000000 0xffffffff 0x00000000 = 0x00000000 ∧ roundFn .r4 0x00000000 0x00000000 0xffffffff = 0x00000000 ∧
    roundFn .r4 0xa5202774 0xefcdab89 0x98badcfe = 0x08a88cfc ∧ roundFn .r4 0x12345678 0x9abcdef0 0x0f1e2d3c = 0x6849080b := by decide

/-- Table C3, at word 7 of the buffer. -/
theorem test_message_words :
    messageWord [(28, 0x61), (29, 0x62), (30, 0x63), (31, 0x80)] 7 = 0x80636261 ∧ messageWord [(28, 0x80)] 7 = 0x00000080 ∧
    messageWord [(31, 0x80)] 7 = 0x80000000 ∧ messageWord [(28, 0x18)] 7 = 0x00000018 ∧
    messageWord [(28, 0x01), (29, 0x23), (30, 0x45), (31, 0x67)] 7 = 0x67452301 ∧ messageWord [(28, 0xff)] 7 = 0x000000ff ∧
    messageWord [(29, 0xff)] 7 = 0x0000ff00 := by decide

/-- Table C4: LENLO and LENHI. -/
theorem test_length :
    lengthWords 0x00000000 0 = (0x00000000, 0x00000000) ∧ lengthWords 0x00000000 1 = (0x00000008, 0x00000000) ∧
    lengthWords 0x00000000 3 = (0x00000018, 0x00000000) ∧ lengthWords 0x00000000 55 = (0x000001b8, 0x00000000) ∧
    lengthWords 0x00000000 56 = (0x000001c0, 0x00000000) ∧ lengthWords 0x00000000 63 = (0x000001f8, 0x00000000) ∧
    lengthWords 0x00000001 0 = (0x00000200, 0x00000000) ∧ lengthWords 0x00000001 1 = (0x00000208, 0x00000000) ∧
    lengthWords 0x00000002 0 = (0x00000400, 0x00000000) ∧ lengthWords 0x007fffff 63 = (0xfffffff8, 0x00000000) ∧
    lengthWords 0x00800000 0 = (0x00000000, 0x00000001) ∧ lengthWords 0x03ffffff 63 = (0xfffffff8, 0x00000007) ∧
    lengthWords 0x04000000 0 = (0x00000000, 0x00000008) ∧ lengthWords 0x04000000 1 = (0x00000008, 0x00000008) ∧
    lengthWords 0x80000000 0 = (0x00000000, 0x00000100) ∧ lengthWords 0xffffffff 63 = (0xfffffff8, 0x000001ff) := by decide

/-- R153: the one input that gives exactly 2^41. -/
theorem test_length_limit : lengthWords 0xFFFFFFFF 64 = (0x00000000, 0x00000200) := by decide

/-- C4, the row 03ffffff, 63: the length field's bytes. -/
theorem test_placeLen :
    (List.range 8).map (fun k => bufRead { s0 with lenlo := 0xfffffff8, lenhi := 0x00000007 }.placeLen.buf (56 + k))
      = [0xf8, 0xff, 0xff, 0xff, 0x07, 0x00, 0x00, 0x00] := by decide +kernel

/-- Example of R160. -/
theorem test_serialize :
    bufBytes { s0 with acc := ⟨0xd98c1dd4, 0x04b2008f, 0x980980e9, 0x7e42f8ec⟩ }.serialize.buf 16
      = [0xd4, 0x1d, 0x8c, 0xd9, 0x8f, 0x00, 0xb2, 0x04, 0xe9, 0x80, 0x09, 0x98, 0xec, 0xf8, 0x42, 0x7e] := by decide +kernel

/-- C7: the block 00 01 02 .. 3f, which has a different value in every message word. -/
theorem test_fold_counting_block :
    foldAcc ⟨0x67452301, 0xefcdab89, 0x98badcfe, 0x10325476⟩ (bufOf 0 ((List.range 64).map (BitVec.ofNat 8)))
      = ⟨0x9144d9ca, 0xd901e4c9, 0x72fc5b38, 0x625ff51e⟩ := by decide +kernel

/-- C7: all ones in the accumulators and in the block. -/
theorem test_fold_ones :
    foldAcc ⟨0xffffffff, 0xffffffff, 0xffffffff, 0xffffffff⟩ (bufOf 0 (List.replicate 64 0xff))
      = ⟨0x6cba9129, 0x29ffd12a, 0x8b9bb7d3, 0xa9a0a3c1⟩ := by decide +kernel

/-- C5, `n` = 54: the padded block. -/
theorem test_pad_one_block :
    bufBytes (nextOf (storeAtCnt 0x80 (s0Run 54 0x61).latchLength)).padZeros.placeLen.buf 64
      = List.replicate 54 0x61 ++ [0x80, 0x00, 0xb0, 0x01, 0x00, 0x00, 0x00, 0x00, 0x00, 0x00] := by decide +kernel

/-- C5, `n` = 57: the second of two padded blocks. -/
theorem test_pad_two_blocks :
    bufBytes (nextOf (storeAtCnt 0x80 (s0Run 57 0x61).latchLength)).padZeros.placeLen.buf 64
      = List.replicate 56 0x00 ++ [0xc8, 0x01, 0x00, 0x00, 0x00, 0x00, 0x00, 0x00] := by decide +kernel

/-- The table of R121. -/
theorem test_legality :
    [Phase.uninit, .absorb, .done, .fault].map (legality .init) = [.runs, .runs, .runs, .ignored] ∧
    [Phase.uninit, .absorb, .done, .fault].map (legality .write)
      = [.violates .uninit, .runs, .violates .writeAfterFinal, .ignored] ∧
    [Phase.uninit, .absorb, .done, .fault].map (legality .final)
      = [.violates .uninit, .runs, .violates .finalTwice, .ignored] ∧
    [Phase.uninit, .absorb, .done, .fault].map (legality .read)
      = [.violates .uninit, .violates .readBeforeFinal, .runs, .ignored] ∧
    [Phase.uninit, .absorb, .done, .fault].map (legality .reserved)
      = [.violates .reserved, .violates .reserved, .violates .reserved, .ignored] := by decide

/-! ### Steps -/

/-- A step's test: its number, its instruction, the roles before and after it (trace T2, block `abcBlock`). -/
structure StepRow where
  step : Nat
  ins : Instr
  before : Working
  after : Working

/-- STEP selects the instruction, and its meaning moves the roles as the trace says. -/
def StepRow.holds (r : StepRow) : Bool :=
  decide (decodeTableWord 8 r.step = some r.ins) &&
  onNext (exec r.ins { s0 with buf := abcBlock, work := r.before }) fun t => decide (t.work = r.after)

/-- Trace T2, steps 0 to 15. -/
def traceRound1 : List StepRow :=
  [
    ⟨0, .s00, ⟨0x67452301, 0xefcdab89, 0x98badcfe, 0x10325476⟩,
      ⟨0x10325476, 0xd6d117b4, 0xefcdab89, 0x98badcfe⟩⟩,
    ⟨1, .s01, ⟨0x10325476, 0xd6d117b4, 0xefcdab89, 0x98badcfe⟩,
      ⟨0x98badcfe, 0x344a8432, 0xd6d117b4, 0xefcdab89⟩⟩,
    ⟨2, .s02, ⟨0x98badcfe, 0x344a8432, 0xd6d117b4, 0xefcdab89⟩,
      ⟨0xefcdab89, 0x2f6fbd72, 0x344a8432, 0xd6d117b4⟩⟩,
    ⟨3, .s03, ⟨0xefcdab89, 0x2f6fbd72, 0x344a8432, 0xd6d117b4⟩,
      ⟨0xd6d117b4, 0x7ad956f2, 0x2f6fbd72, 0x344a8432⟩⟩,
    ⟨4, .s04, ⟨0xd6d117b4, 0x7ad956f2, 0x2f6fbd72, 0x344a8432⟩,
      ⟨0x344a8432, 0xc73741ef, 0x7ad956f2, 0x2f6fbd72⟩⟩,
    ⟨5, .s05, ⟨0x344a8432, 0xc73741ef, 0x7ad956f2, 0x2f6fbd72⟩,
      ⟨0x2f6fbd72, 0x8bac3051, 0xc73741ef, 0x7ad956f2⟩⟩,
    ⟨6, .s06, ⟨0x2f6fbd72, 0x8bac3051, 0xc73741ef, 0x7ad956f2⟩,
      ⟨0x7ad956f2, 0x207dc67b, 0x8bac3051, 0xc73741ef⟩⟩,
    ⟨7, .s07, ⟨0x7ad956f2, 0x207dc67b, 0x8bac3051, 0xc73741ef⟩,
      ⟨0xc73741ef, 0x928d99f6, 0x207dc67b, 0x8bac3051⟩⟩,
    ⟨8, .s08, ⟨0xc73741ef, 0x928d99f6, 0x207dc67b, 0x8bac3051⟩,
      ⟨0x8bac3051, 0x854b3712, 0x928d99f6, 0x207dc67b⟩⟩,
    ⟨9, .s09, ⟨0x8bac3051, 0x854b3712, 0x928d99f6, 0x207dc67b⟩,
      ⟨0x207dc67b, 0x74e2f284, 0x854b3712, 0x928d99f6⟩⟩,
    ⟨10, .s10, ⟨0x207dc67b, 0x74e2f284, 0x854b3712, 0x928d99f6⟩,
      ⟨0x928d99f6, 0x3020401c, 0x74e2f284, 0x854b3712⟩⟩,
    ⟨11, .s11, ⟨0x928d99f6, 0x3020401c, 0x74e2f284, 0x854b3712⟩,
      ⟨0x854b3712, 0x5ed49596, 0x3020401c, 0x74e2f284⟩⟩,
    ⟨12, .s12, ⟨0x854b3712, 0x5ed49596, 0x3020401c, 0x74e2f284⟩,
      ⟨0x74e2f284, 0xdda9b9a6, 0x5ed49596, 0x3020401c⟩⟩,
    ⟨13, .s13, ⟨0x74e2f284, 0xdda9b9a6, 0x5ed49596, 0x3020401c⟩,
      ⟨0x3020401c, 0xa1051895, 0xdda9b9a6, 0x5ed49596⟩⟩,
    ⟨14, .s14, ⟨0x3020401c, 0xa1051895, 0xdda9b9a6, 0x5ed49596⟩,
      ⟨0x5ed49596, 0xe396856b, 0xa1051895, 0xdda9b9a6⟩⟩,
    ⟨15, .s15, ⟨0x5ed49596, 0xe396856b, 0xa1051895, 0xdda9b9a6⟩,
      ⟨0xdda9b9a6, 0x72aff2e0, 0xe396856b, 0xa1051895⟩⟩]

theorem test_steps_round1 : traceRound1.all StepRow.holds = true := by decide +kernel

/-- Trace T2, steps 16 to 31. -/
def traceRound2 : List StepRow :=
  [
    ⟨16, .s16, ⟨0xdda9b9a6, 0x72aff2e0, 0xe396856b, 0xa1051895⟩,
      ⟨0xa1051895, 0x3e9e9126, 0x72aff2e0, 0xe396856b⟩⟩,
    ⟨17, .s17, ⟨0xa1051895, 0x3e9e9126, 0x72aff2e0, 0xe396856b⟩,
      ⟨0xe396856b, 0x4a1d804e, 0x3e9e9126, 0x72aff2e0⟩⟩,
    ⟨18, .s18, ⟨0xe396856b, 0x4a1d804e, 0x3e9e9126, 0x72aff2e0⟩,
      ⟨0x72aff2e0, 0xe25e1652, 0x4a1d804e, 0x3e9e9126⟩⟩,
    ⟨19, .s19, ⟨0x72aff2e0, 0xe25e1652, 0x4a1d804e, 0x3e9e9126⟩,
      ⟨0x3e9e9126, 0xb5b204e4, 0xe25e1652, 0x4a1d804e⟩⟩,
    ⟨20, .s20, ⟨0x3e9e9126, 0xb5b204e4, 0xe25e1652, 0x4a1d804e⟩,
      ⟨0x4a1d804e, 0x59a8ffda, 0xb5b204e4, 0xe25e1652⟩⟩,
    ⟨21, .s21, ⟨0x4a1d804e, 0x59a8ffda, 0xb5b204e4, 0xe25e1652⟩,
      ⟨0xe25e1652, 0x6d002f1e, 0x59a8ffda, 0xb5b204e4⟩⟩,
    ⟨22, .s22, ⟨0xe25e1652, 0x6d002f1e, 0x59a8ffda, 0xb5b204e4⟩,
      ⟨0xb5b204e4, 0xabfc7920, 0x6d002f1e, 0x59a8ffda⟩⟩,
    ⟨23, .s23, ⟨0xb5b204e4, 0xabfc7920, 0x6d002f1e, 0x59a8ffda⟩,
      ⟨0x59a8ffda, 0x47092c07, 0xabfc7920, 0x6d002f1e⟩⟩,
    ⟨24, .s24, ⟨0x59a8ffda, 0x47092c07, 0xabfc7920, 0x6d002f1e⟩,
      ⟨0x6d002f1e, 0xb7f268cf, 0x47092c07, 0xabfc7920⟩⟩,
    ⟨25, .s25, ⟨0x6d002f1e, 0xb7f268cf, 0x47092c07, 0xabfc7920⟩,
      ⟨0xabfc7920, 0x09388eff, 0xb7f268cf, 0x47092c07⟩⟩,
    ⟨26, .s26, ⟨0xabfc7920, 0x09388eff, 0xb7f268cf, 0x47092c07⟩,
      ⟨0x47092c07, 0xfe1623b1, 0x09388eff, 0xb7f268cf⟩⟩,
    ⟨27, .s27, ⟨0x47092c07, 0xfe1623b1, 0x09388eff, 0xb7f268cf⟩,
      ⟨0xb7f268cf, 0x786acb8f, 0xfe1623b1, 0x09388eff⟩⟩,
    ⟨28, .s28, ⟨0xb7f268cf, 0x786acb8f, 0xfe1623b1, 0x09388eff⟩,
      ⟨0x09388eff, 0x790a77fb, 0x786acb8f, 0xfe1623b1⟩⟩,
    ⟨29, .s29, ⟨0x09388eff, 0x790a77fb, 0x786acb8f, 0xfe1623b1⟩,
      ⟨0xfe1623b1, 0x9f47e4f8, 0x790a77fb, 0x786acb8f⟩⟩,
    ⟨30, .s30, ⟨0xfe1623b1, 0x9f47e4f8, 0x790a77fb, 0x786acb8f⟩,
      ⟨0x786acb8f, 0xa62884aa, 0x9f47e4f8, 0x790a77fb⟩⟩,
    ⟨31, .s31, ⟨0x786acb8f, 0xa62884aa, 0x9f47e4f8, 0x790a77fb⟩,
      ⟨0x790a77fb, 0x726342d3, 0xa62884aa, 0x9f47e4f8⟩⟩]

theorem test_steps_round2 : traceRound2.all StepRow.holds = true := by decide +kernel

/-- Trace T2, steps 32 to 47. -/
def traceRound3 : List StepRow :=
  [
    ⟨32, .s32, ⟨0x790a77fb, 0x726342d3, 0xa62884aa, 0x9f47e4f8⟩,
      ⟨0x9f47e4f8, 0xb3707ebf, 0x726342d3, 0xa62884aa⟩⟩,
    ⟨33, .s33, ⟨0x9f47e4f8, 0xb3707ebf, 0x726342d3, 0xa62884aa⟩,
      ⟨0xa62884aa, 0x60127b2e, 0xb3707ebf, 0x726342d3⟩⟩,
    ⟨34, .s34, ⟨0xa62884aa, 0x60127b2e, 0xb3707ebf, 0x726342d3⟩,
      ⟨0x726342d3, 0x8d212ff5, 0x60127b2e, 0xb3707ebf⟩⟩,
    ⟨35, .s35, ⟨0x726342d3, 0x8d212ff5, 0x60127b2e, 0xb3707ebf⟩,
      ⟨0xb3707ebf, 0x3b0875c7, 0x8d212ff5, 0x60127b2e⟩⟩,
    ⟨36, .s36, ⟨0xb3707ebf, 0x3b0875c7, 0x8d212ff5, 0x60127b2e⟩,
      ⟨0x60127b2e, 0x21b117b9, 0x3b0875c7, 0x8d212ff5⟩⟩,
    ⟨37, .s37, ⟨0x60127b2e, 0x21b117b9, 0x3b0875c7, 0x8d212ff5⟩,
      ⟨0x8d212ff5, 0x6e7429d5, 0x21b117b9, 0x3b0875c7⟩⟩,
    ⟨38, .s38, ⟨0x8d212ff5, 0x6e7429d5, 0x21b117b9, 0x3b0875c7⟩,
      ⟨0x3b0875c7, 0x3575227e, 0x6e7429d5, 0x21b117b9⟩⟩,
    ⟨39, .s39, ⟨0x3b0875c7, 0x3575227e, 0x6e7429d5, 0x21b117b9⟩,
      ⟨0x21b117b9, 0x5a2f5ea5, 0x3575227e, 0x6e7429d5⟩⟩,
    ⟨40, .s40, ⟨0x21b117b9, 0x5a2f5ea5, 0x3575227e, 0x6e7429d5⟩,
      ⟨0x6e7429d5, 0x11de1779, 0x5a2f5ea5, 0x3575227e⟩⟩,
    ⟨41, .s41, ⟨0x6e7429d5, 0x11de1779, 0x5a2f5ea5, 0x3575227e⟩,
      ⟨0x3575227e, 0xfadcaa38, 0x11de1779, 0x5a2f5ea5⟩⟩,
    ⟨42, .s42, ⟨0x3575227e, 0xfadcaa38, 0x11de1779, 0x5a2f5ea5⟩,
      ⟨0x5a2f5ea5, 0x31c465ca, 0xfadcaa38, 0x11de1779⟩⟩,
    ⟨43, .s43, ⟨0x5a2f5ea5, 0x31c465ca, 0xfadcaa38, 0x11de1779⟩,
      ⟨0x11de1779, 0x4c6124f4, 0x31c465ca, 0xfadcaa38⟩⟩,
    ⟨44, .s44, ⟨0x11de1779, 0x4c6124f4, 0x31c465ca, 0xfadcaa38⟩,
      ⟨0xfadcaa38, 0x7f2e507b, 0x4c6124f4, 0x31c465ca⟩⟩,
    ⟨45, .s45, ⟨0xfadcaa38, 0x7f2e507b, 0x4c6124f4, 0x31c465ca⟩,
      ⟨0x31c465ca, 0x99d9679d, 0x7f2e507b, 0x4c6124f4⟩⟩,
    ⟨46, .s46, ⟨0x31c465ca, 0x99d9679d, 0x7f2e507b, 0x4c6124f4⟩,
      ⟨0x4c6124f4, 0x8fae6399, 0x99d9679d, 0x7f2e507b⟩⟩,
    ⟨47, .s47, ⟨0x4c6124f4, 0x8fae6399, 0x99d9679d, 0x7f2e507b⟩,
      ⟨0x7f2e507b, 0x7beb9700, 0x8fae6399, 0x99d9679d⟩⟩]

theorem test_steps_round3 : traceRound3.all StepRow.holds = true := by decide +kernel

/-- Trace T2, steps 48 to 63. -/
def traceRound4 : List StepRow :=
  [
    ⟨48, .s48, ⟨0x7f2e507b, 0x7beb9700, 0x8fae6399, 0x99d9679d⟩,
      ⟨0x99d9679d, 0x7b201df8, 0x7beb9700, 0x8fae6399⟩⟩,
    ⟨49, .s49, ⟨0x99d9679d, 0x7b201df8, 0x7beb9700, 0x8fae6399⟩,
      ⟨0x8fae6399, 0xf4e8e96e, 0x7b201df8, 0x7beb9700⟩⟩,
    ⟨50, .s50, ⟨0x8fae6399, 0xf4e8e96e, 0x7b201df8, 0x7beb9700⟩,
      ⟨0x7beb9700, 0xb298cefd, 0xf4e8e96e, 0x7b201df8⟩⟩,
    ⟨51, .s51, ⟨0x7beb9700, 0xb298cefd, 0xf4e8e96e, 0x7b201df8⟩,
      ⟨0x7b201df8, 0x8bf025c4, 0xb298cefd, 0xf4e8e96e⟩⟩,
    ⟨52, .s52, ⟨0x7b201df8, 0x8bf025c4, 0xb298cefd, 0xf4e8e96e⟩,
      ⟨0xf4e8e96e, 0x06cc5e8a, 0x8bf025c4, 0xb298cefd⟩⟩,
    ⟨53, .s53, ⟨0xf4e8e96e, 0x06cc5e8a, 0x8bf025c4, 0xb298cefd⟩,
      ⟨0xb298cefd, 0x5b0d97aa, 0x06cc5e8a, 0x8bf025c4⟩⟩,
    ⟨54, .s54, ⟨0xb298cefd, 0x5b0d97aa, 0x06cc5e8a, 0x8bf025c4⟩,
      ⟨0x8bf025c4, 0x7d632dd0, 0x5b0d97aa, 0x06cc5e8a⟩⟩,
    ⟨55, .s55, ⟨0x8bf025c4, 0x7d632dd0, 0x5b0d97aa, 0x06cc5e8a⟩,
      ⟨0x06cc5e8a, 0x3bfa2c27, 0x7d632dd0, 0x5b0d97aa⟩⟩,
    ⟨56, .s56, ⟨0x06cc5e8a, 0x3bfa2c27, 0x7d632dd0, 0x5b0d97aa⟩,
      ⟨0x5b0d97aa, 0x7f81cc35, 0x3bfa2c27, 0x7d632dd0⟩⟩,
    ⟨57, .s57, ⟨0x5b0d97aa, 0x7f81cc35, 0x3bfa2c27, 0x7d632dd0⟩,
      ⟨0x7d632dd0, 0x094454ab, 0x7f81cc35, 0x3bfa2c27⟩⟩,
    ⟨58, .s58, ⟨0x7d632dd0, 0x094454ab, 0x7f81cc35, 0x3bfa2c27⟩,
      ⟨0x3bfa2c27, 0x4f9dbe3f, 0x094454ab, 0x7f81cc35⟩⟩,
    ⟨59, .s59, ⟨0x3bfa2c27, 0x4f9dbe3f, 0x094454ab, 0x7f81cc35⟩,
      ⟨0x7f81cc35, 0x7327d604, 0x4f9dbe3f, 0x094454ab⟩⟩,
    ⟨60, .s60, ⟨0x7f81cc35, 0x7327d604, 0x4f9dbe3f, 0x094454ab⟩,
      ⟨0x094454ab, 0x310ade8f, 0x7327d604, 0x4f9dbe3f⟩⟩,
    ⟨61, .s61, ⟨0x094454ab, 0x310ade8f, 0x7327d604, 0x4f9dbe3f⟩,
      ⟨0x4f9dbe3f, 0x624d8cb2, 0x310ade8f, 0x7327d604⟩⟩,
    ⟨62, .s62, ⟨0x4f9dbe3f, 0x624d8cb2, 0x310ade8f, 0x7327d604⟩,
      ⟨0x7327d604, 0xe484b9d8, 0x624d8cb2, 0x310ade8f⟩⟩,
    ⟨63, .s63, ⟨0x7327d604, 0xe484b9d8, 0x624d8cb2, 0x310ade8f⟩,
      ⟨0x310ade8f, 0xc08226b3, 0xe484b9d8, 0x624d8cb2⟩⟩]

theorem test_steps_round4 : traceRound4.all StepRow.holds = true := by decide +kernel

/-- Table C6: one step of each round on operands of its own. -/
theorem test_steps_isolated :
    onNext (exec .s00 { s0 with buf := [(0, 0x61), (1, 0x62), (2, 0x63), (3, 0x80)], work := ⟨0x67452301, 0xefcdab89, 0x98badcfe, 0x10325476⟩ })
      (fun t => decide (t.work = ⟨0x10325476, 0xd6d117b4, 0xefcdab89, 0x98badcfe⟩)) = true ∧
    onNext (exec .s17 { s0 with buf := [(24, 0xef), (25, 0xbe), (26, 0xad), (27, 0xde)], work := ⟨0x01234567, 0x89abcdef, 0xfedcba98, 0x76543210⟩ })
      (fun t => decide (t.work = ⟨0x76543210, 0xbe2c0a40, 0x89abcdef, 0xfedcba98⟩)) = true ∧
    onNext (exec .s35 { s0 with buf := [(56, 0xff), (57, 0xff), (58, 0xff), (59, 0xff)], work := ⟨0xffffffff, 0x00000000, 0xffffffff, 0x00000000⟩ })
      (fun t => decide (t.work = ⟨0x00000000, 0x04fef29c, 0x00000000, 0xffffffff⟩)) = true ∧
    onNext (exec .s63 { s0 with buf := [], work := ⟨0x00000001, 0x80000000, 0x7fffffff, 0xffffffff⟩ })
      (fun t => decide (t.work = ⟨0xffffffff, 0xf23d70da, 0x80000000, 0x7fffffff⟩)) = true := by decide +kernel

/-- Step 63 ends the fold of T2: the accumulators of the example of R124, the block counted, CNT 0, the sequencer idle. -/
theorem test_last_step :
    onNext (step { s0 with
        buf := abcBlock, seq := .foldToIdle, stepReg := 63, cnt := 64
        work := ⟨0x7327d604, 0xe484b9d8, 0x624d8cb2, 0x310ade8f⟩ })
      (fun t => decide (t.acc = ⟨0x98500190, 0xb04fd23c, 0x7d3f96d6, 0x727fe128⟩ ∧ t.nblk = 1 ∧ t.cnt = 0 ∧ t.seq = .idle))
      = true := by decide +kernel

/-! ### Commands: one machine step each -/

/-- Example of R122: INIT from reset. -/
theorem test_init :
    onNext (step (State.reset.withFetchWord 16 0x000))
      (fun t => decide (t.phaseOut = 1 ∧ t.acc = ⟨0x67452301, 0xefcdab89, 0x98badcfe, 0x10325476⟩ ∧ t.nblk = 0 ∧
        t.cnt = 0 ∧ t.buf = [] ∧ t.rsp = none)) = true := by decide +kernel

/-- R276: INIT in FAULT is ignored, the cause of the first violation stays. -/
theorem test_init_in_fault :
    onNext (step (faulted.withFetchWord 16 0x000)) (fun t => decide (t.phaseOut = 3 ∧ t.causeOut = 3)) = true := by
  decide +kernel

/-- Example of R123: WRITE 'a' from S0. -/
theorem test_write :
    onNext (step (s0.withFetchWord 16 0x161))
      (fun t => decide (bufBytes t.buf 2 = [0x61, 0x00] ∧ t.cnt = 1 ∧ t.phaseOut = 1 ∧ t.rsp = none)) = true := by
  decide +kernel

/-- C7, 61*64: the 64th byte folds the block inside the command. -/
theorem test_write_completes_block :
    onNext (step ((s0Run 63 0x61).withFetchWord 16 0x161))
      (fun t => decide (t.acc = ⟨0x89d4ff56, 0x125cd962, 0x69cade33, 0x0033e325⟩ ∧ t.nblk = 1 ∧ t.cnt = 0 ∧
        t.phaseOut = 1)) = true := by decide +kernel

/-- Example of R124: FINAL after "abc". -/
theorem test_final :
    onNext (step (s0Abc.withFetchWord 16 0x200))
      (fun t => decide (t.acc = ⟨0x98500190, 0xb04fd23c, 0x7d3f96d6, 0x727fe128⟩ ∧
        bufBytes t.buf 16 = [0x90, 0x01, 0x50, 0x98, 0x3c, 0xd2, 0x4f, 0xb0, 0xd6, 0x96, 0x3f, 0x7d, 0x28, 0xe1, 0x7f, 0x72] ∧
        t.nblk = 1 ∧ t.cnt = 0 ∧ t.lenlo = 0x18 ∧ t.phaseOut = 2 ∧ t.rsp = none)) = true := by decide +kernel

/-- C8, `n` = 56: the two-block path. -/
theorem test_final_two_blocks :
    onNext (step ((s0Run 56 0x61).withFetchWord 16 0x200))
      (fun t => decide (
        bufBytes t.buf 16 = [0x3b, 0x0c, 0x8a, 0xc7, 0x03, 0xf8, 0x28, 0xb0, 0x4c, 0x6c, 0x19, 0x70, 0x06, 0xd1, 0x72, 0x18] ∧
        t.nblk = 2 ∧ t.cnt = 0 ∧ t.lenlo = 0x1c0)) = true := by decide +kernel

/-- Example of R126: READ 0 and READ 15 after "abc". -/
theorem test_read :
    onNext (step (abcDone.withFetchWord 16 0x300)) (fun t => decide (t.rsp = some 0x90)) = true ∧
    onNext (step (abcDone.withFetchWord 16 0x30F)) (fun t => decide (t.rsp = some 0x72)) = true := by decide +kernel

/-- C10: READ in ABSORB raises cause 4 and has no response. -/
theorem test_read_before_final :
    onNext (step ((s0Run 1 0x61).withFetchWord 16 0x300))
      (fun t => decide (t.phaseOut = 3 ∧ t.causeOut = 4 ∧ t.rsp = none)) = true := by decide +kernel

/-- C10: WRITE in DONE raises cause 2 and stores nothing; FINAL in DONE raises cause 3. -/
theorem test_misuse_after_final :
    onNext (step (abcDone.withFetchWord 16 0x162))
      (fun t => decide (t.phaseOut = 3 ∧ t.causeOut = 2 ∧ t.buf = abcDone.buf)) = true ∧
    onNext (step (abcDone.withFetchWord 16 0x200)) (fun t => decide (t.phaseOut = 3 ∧ t.causeOut = 3)) = true := by
  decide +kernel

/-- P9: a reserved word before INIT raises cause 5, not 1. -/
theorem test_reserved_beats_phase :
    onNext (step { State.reset with input := [.command 0x001] }) (fun t => decide (t.phaseOut = 3 ∧ t.causeOut = 5)) = true ∧
    onNext (step { State.reset with input := [.command 0x161] }) (fun t => decide (t.phaseOut = 3 ∧ t.causeOut = 1)) = true := by
  decide +kernel

/-- R311: a reset in the middle of a fold. -/
theorem test_reset_mid_fold :
    onNext (step { faulted with seq := .foldToSerialize, input := [.reset, .command 0x000] })
      (fun t => decide (t.phaseOut = 0 ∧ t.causeOut = 0 ∧ t.cmdReady = true ∧ t.input = [.command 0x000])) = true := by
  decide +kernel

/-! ### The buffer -/

theorem test_bufWf_states : bufWf State.reset.buf ∧ bufWf abcDone.buf ∧ bufWf (s0Run 63 0xFF).buf := by
  decide +kernel

/-- Writing 0x00 unlists a byte. -/
theorem test_bufWrite_canonical : bufWrite (bufWrite [] 5 0x80) 5 0x00 = [] ∧ bufWrite [(5, 1)] 3 2 = [(3, 2), (5, 1)] := by
  decide

/-! ### Witnesses -/

/-- `s` in the middle of a fold. -/
def midFold (ret : Seq) (i : BitVec 6) (s : State) : State := { s with seq := ret, stepReg := i }

/-- `s` with command words presented. -/
def presenting (s : State) (l : List (BitVec 10)) : State := { s with input := l.map .command }

theorem noReset_nil (s : State) (h : s.input = []) : NoReset s := fun rest e => by rw [h] at e; cases e

theorem noReset_command (s : State) (w : BitVec 10) (l : List PortEvent) (h : s.input = .command w :: l) : NoReset s :=
  fun rest e => by rw [h] at e; cases e

theorem witness_ResetEventFromAnyState :
    { faulted with input := [.reset] }.input = .reset :: [] ∧
    { midFold .foldToSerialize 5 s0 with input := [.reset, .command 0x000] }.input = .reset :: [.command 0x000] := by decide

theorem witness_StepRunsDecodedCommand :
    (presenting s0 [0x161]).seq = .idle ∧ (presenting s0 [0x161]).input = .command 0x161 :: [] ∧
    decodeCommand 0x161 = .ok (.write 0x61) ∧ (presenting s0 [0x001, 0x000]).input = .command 0x001 :: [.command 0x000] ∧
    decodeCommand 0x001 = .error .initOperand := by decide

/-- Clause 2 at STEP 0 and 62, and a state at STEP 63. -/
theorem witness_StepRunsSelectedRow :
    ((midFold .foldToIdle 0 s0).seq ≠ .idle ∧ NoReset (midFold .foldToIdle 0 s0) ∧
      (midFold .foldToIdle 0 s0).stepReg ≠ 63 ∧ ∃ t, exec (stepInstr 0) (midFold .foldToIdle 0 s0) = .next t) ∧
    ((midFold .foldToSerialize 62 s0).seq ≠ .idle ∧ NoReset (midFold .foldToSerialize 62 s0) ∧
      (midFold .foldToSerialize 62 s0).stepReg ≠ 63 ∧ ∃ t, exec (stepInstr 62) (midFold .foldToSerialize 62 s0) = .next t) ∧
    ((midFold .foldToSecondBlock 63 s0).seq ≠ .idle ∧ NoReset (midFold .foldToSecondBlock 63 s0) ∧
      ∃ t, step (midFold .foldToSecondBlock 63 s0) = .next t) :=
  ⟨⟨by decide, noReset_nil _ rfl, by decide, _, exec_stepInstr _ _⟩,
   ⟨by decide, noReset_nil _ rfl, by decide, _, exec_stepInstr _ _⟩,
   ⟨by decide, noReset_nil _ rfl, _, step_row _ (by decide) (noReset_nil _ rfl)⟩⟩

theorem witness_IdleEngineKeepsState : abcDone.seq = .idle ∧ abcDone.input = [] := by decide

/-- At both ends of the three ranges, in the three phases that are not FAULT. -/
theorem witness_ReservedWordsExactly :
    ([(State.reset, 0x001), (s0, 0x0FF), (abcDone, 0x201), (s0, 0x2FF), (abcDone, 0x310), (State.reset, 0x3FF)] :
      List (State × BitVec 10)).all (fun x =>
        decide ((presenting x.1 [x.2]).seq = .idle ∧ (presenting x.1 [x.2]).input = .command x.2 :: [] ∧
          (presenting x.1 [x.2]).phase ≠ .fault) &&
        (match decodeCommand x.2 with
         | .ok _ => false
         | .error _ => true)) = true := by decide +kernel

theorem witness_DecodeEncodeAgree :
    Instr.init.wellFormed = true ∧ (Instr.write 0x80).wellFormed = true ∧ (Instr.read 15).wellFormed = true ∧
    Instr.s63.wellFormed = true := by decide

theorem witness_EncodeDecodeAgree :
    decode (.command 0x1FF) = .ok (.write 0xFF) ∧ decode (.row 63) = .ok .s63 := by decide

theorem witness_TableRowSelectsDecode :
    (tableRow (.write 0x00)).selects (.command 0x161) = true ∧ (tableRow (.write 0xFF)).selects (.command 0x161) = true ∧
    (tableRow .s63).selects (.row 63) = true := by decide

theorem witness_InitGivesFreshState :
    State.reset.phase ≠ .fault ∧ s0.phase ≠ .fault ∧ abcDone.phase ≠ .fault ∧ faulted.phase = .fault := by decide

/-- CNT 0, 62 and 63; the phases of the other clauses. -/
theorem witness_WriteAppendsByte :
    (s0.phase = .absorb ∧ bufWf s0.buf ∧ s0.cnt.toNat = 0) ∧
    ((s0Run 62 0x61).phase = .absorb ∧ bufWf (s0Run 62 0x61).buf ∧
      (s0Run 62 0x61).cnt.toNat = 62) ∧
    ((s0Run 63 0x61).phase = .absorb ∧ bufWf (s0Run 63 0x61).buf ∧
      (s0Run 63 0x61).cnt.toNat = 63) ∧
    State.reset.phase = .uninit ∧ abcDone.phase = .done ∧ faulted.phase = .fault := by decide +kernel

theorem witness_FinalOneBlock :
    (s0.phase = .absorb ∧ bufWf s0.buf ∧ s0.cnt.toNat ≤ 55) ∧
    ((s0Run 55 0x61).phase = .absorb ∧ bufWf (s0Run 55 0x61).buf ∧
      (s0Run 55 0x61).cnt.toNat = 55) := by decide +kernel

theorem witness_FinalTwoBlocks :
    ((s0Run 56 0x61).phase = .absorb ∧ bufWf (s0Run 56 0x61).buf ∧
      (s0Run 56 0x61).cnt.toNat = 56) ∧
    ((s0Run 63 0x61).phase = .absorb ∧ bufWf (s0Run 63 0x61).buf ∧
      (s0Run 63 0x61).cnt.toNat = 63) := by decide +kernel

theorem witness_FinalFromFullBuffer : { s0 with cnt := 64 }.phase = .absorb ∧ { s0 with cnt := 64 }.cnt = 64 := by decide

/-- The DONE state that the spec's example gives meets the boundary invariant. -/
theorem boundary_abcDone : BoundaryInv abcDone := by
  refine ⟨rfl, by decide +kernel, by decide, fun _ => ⟨rfl, ?_⟩, by decide, by decide, by decide⟩
  have h : ∀ i : Fin 16, bufRead abcDone.buf i = digestByte abcDone.acc i := by decide +kernel
  exact fun i hi => h ⟨i, hi⟩

theorem boundary_reset : BoundaryInv State.reset := by
  refine ⟨rfl, by decide, by decide, by decide, by decide, by decide, by decide⟩

theorem boundary_s0_63 : BoundaryInv (s0Run 63 0x61) := by
  refine ⟨rfl, by decide +kernel, by decide +kernel, by decide, by decide, by decide, by decide⟩

theorem boundary_faulted : BoundaryInv faulted := by
  refine ⟨rfl, by decide +kernel, by decide, by decide, by decide, by decide, by decide⟩

/-- WRITE at CNT 64, FINAL at CNT 65, both at 127; and the highest CNT of a boundary state in ABSORB. -/
theorem witness_CountOutsideBufferStops :
    ({ s0 with cnt := 64 }.phase = .absorb ∧ 64 ≤ { s0 with cnt := 64 }.cnt.toNat ∧ 65 ≤ { s0 with cnt := 65 }.cnt.toNat ∧
      65 ≤ { s0 with cnt := 127 }.cnt.toNat) ∧
    BoundaryInv (s0Run 63 0x61) ∧ (s0Run 63 0x61).phase = .absorb ∧ (s0Run 63 0x61).cnt = 63 :=
  ⟨by decide, boundary_s0_63, rfl, rfl⟩

theorem witness_ReadRespondsDigestByte :
    abcDone.phase = .done ∧ BoundaryInv abcDone ∧ State.reset.phase = .uninit ∧ s0.phase = .absorb ∧
    faulted.phase = .fault := ⟨rfl, boundary_abcDone, rfl, rfl, rfl⟩

theorem witness_IllegalCommandRaisesItsCause :
    State.reset.phase = .uninit ∧ abcDone.phase = .done ∧ s0.phase = .absorb ∧ abcDone.phase ≠ .fault := by decide

theorem witness_FaultIgnoresEveryWord :
    (presenting faulted [0x000]).seq = .idle ∧ (presenting faulted [0x000]).phase = .fault ∧
    (presenting faulted [0x000]).input = .command 0x000 :: [] := by decide

/-- The cells of R121 at the ends of each command's words and of each reserved range (R92, R94). -/
theorem test_violationCause_table :
    ([0x000, 0x100, 0x1FF, 0x200, 0x300, 0x30F, 0x001, 0x0FF, 0x201, 0x2FF, 0x310, 0x3FF] : List (BitVec 10)).map
        (fun w => (violationCause .uninit w, violationCause .absorb w, violationCause .done w, violationCause .fault w))
      = (none, none, none, none) :: List.replicate 2 (some 1, none, some 2, none) ++
        (some 1, none, some 3, none) :: List.replicate 2 (some 1, some 4, none, none) ++
        List.replicate 6 (some 5, some 5, some 5, none) := by decide +kernel

/-- Each way PHASE can change: reset, INIT, FINAL at a boundary, the end of the last fold of FINAL, a violation of each
cause. -/
theorem witness_PhaseMovesOnlyAsListed :
    ([{ faulted with input := [.reset] }, presenting State.reset [0x000], presenting s0 [0x200],
      midFold .foldToSerialize 63 s0, presenting State.reset [0x100], presenting abcDone [0x161],
      presenting abcDone [0x200], presenting s0 [0x300], presenting s0 [0x310]] : List State).all
        (fun s => onNext (step s) fun t => decide (t.phase ≠ s.phase)) = true := by decide +kernel

/-- From FAULT; a change of CAUSE by a violation and by a reset. -/
theorem witness_OnlyResetLeavesFault :
    (∃ t, step (presenting faulted [0x000]) = .next t ∧ (presenting faulted [0x000]).seq = .idle ∧
      (presenting faulted [0x000]).phase = .fault ∧ NoReset (presenting faulted [0x000])) ∧
    (∃ t, step (presenting abcDone [0x161]) = .next t ∧ t.cause ≠ (presenting abcDone [0x161]).cause) ∧
    (∃ t, step { faulted with input := [.reset] } = .next t ∧ t.cause ≠ faulted.cause) :=
  ⟨⟨_, eq_next_of _ (by decide +kernel), rfl, rfl, noReset_command _ 0x000 [] rfl⟩,
   ⟨_, eq_next_of _ (by decide +kernel), by decide +kernel⟩, ⟨_, eq_next_of _ (by decide +kernel), by decide +kernel⟩⟩

/-- In DONE with a READ, in ABSORB with the byte that completes a block, and with FINAL in ABSORB. -/
theorem witness_BoundaryInvariantKept :
    (BoundaryInv (presenting abcDone [0x30F]) ∧ ∃ t, step (presenting abcDone [0x30F]) = .next t) ∧
    (BoundaryInv (presenting (s0Run 63 0x61) [0x161]) ∧
      ∃ t, step (presenting (s0Run 63 0x61) [0x161]) = .next t) ∧
    (BoundaryInv (presenting (s0Run 63 0x61) [0x200]) ∧
      ∃ t, step (presenting (s0Run 63 0x61) [0x200]) = .next t) :=
  ⟨⟨boundary_abcDone, _, eq_next_of _ (by decide +kernel)⟩, ⟨boundary_s0_63, _, eq_next_of _ (by decide +kernel)⟩,
   ⟨boundary_s0_63, _, eq_next_of _ (by decide +kernel)⟩⟩

/-- At a boundary, and inside a fold. -/
theorem witness_BufferStaysCanonical :
    (bufWf (presenting s0 [0x161]).buf ∧ ∃ t, step (presenting s0 [0x161]) = .next t) ∧
    (bufWf (midFold .foldToSecondBlock 63 abcDone).buf ∧ ∃ t, step (midFold .foldToSecondBlock 63 abcDone) = .next t) :=
  ⟨⟨by decide, _, eq_next_of _ (by decide +kernel)⟩,
   ⟨by decide +kernel, _, step_row _ (by decide) (noReset_nil _ rfl)⟩⟩

theorem witness_EngineNeverStops :
    BoundaryInv (presenting abcDone [0x200]) ∧ BoundaryInv faulted ∧ (midFold .foldToIdle 63 s0).seq ≠ .idle :=
  ⟨boundary_abcDone, boundary_faulted, by decide⟩

theorem witness_LengthIsExact : (64 : BitVec 7).toNat ≤ 64 ∧ (63 : BitVec 7).toNat ≤ 63 ∧ (0 : BitVec 7).toNat ≤ 63 := by
  decide

theorem witness_LengthFieldLayout : bufWf abcDone.buf ∧ bufRead abcDone.buf 56 = 0x18 ∧ abcDone.lenlo = 0x18 := by
  decide +kernel

theorem witness_DigestLayout : bufWf abcDone.buf ∧ abcDone.acc.w0 = 0x98500190 := by decide +kernel

theorem witness_MessageWordsAreLittleEndian :
    bufWf abcBlock ∧ 15 < 16 ∧ 3 < 4 ∧ (0 < 4 ∧ 0 ≠ 3) ∧ bufWf (bufOf 0 (List.replicate 64 0xFF)) := by decide +kernel

theorem witness_RoundFunctionsBitByBit : 0 < 32 ∧ 31 < 32 := by decide

theorem witness_FoldTakesSixtyFourSteps :
    Seq.foldToIdle ≠ .idle ∧ Seq.foldToSecondBlock ≠ .idle ∧ Seq.foldToSerialize ≠ .idle ∧ NoReset s0 ∧
    NoReset (presenting s0 [0x200]) :=
  ⟨by decide, by decide, by decide, noReset_nil _ rfl, noReset_command _ 0x200 [] rfl⟩

theorem witness_WriteEqualsItsSteps :
    (s0Run 63 0x61).seq = .idle ∧ (s0Run 63 0x61).phase = .absorb ∧
    (s0Run 63 0x61).cnt = 63 ∧ (s0Run 63 0x61).rsp = none ∧
    NoReset (s0Run 63 0x61) :=
  ⟨rfl, rfl, by decide +kernel, rfl, noReset_nil _ rfl⟩

/-- CNT 0 and 55 (one block), 56 and 63 (two blocks). -/
theorem witness_FinalEqualsItsSteps (n : Fin 4) :
    let s := s0Run ([0, 55, 56, 63].getD n 0) 0x61
    s.seq = .idle ∧ s.phase = .absorb ∧ s.cnt.toNat ≤ 63 ∧ s.rsp = none ∧ NoReset s ∧
    ∃ s1, storeAtCnt 0x80 s.latchLength = .next s1 := by
  have h : ∀ n : Fin 4, (s0Run ([0, 55, 56, 63].getD n 0) 0x61).cnt.toNat ≤ 63 := by decide +kernel
  exact ⟨rfl, rfl, h n, rfl, noReset_nil _ rfl, _, storeAtCnt_of_lt _ _ (Nat.lt_succ_of_le (h n))⟩

theorem witness_InitStartsTheEmptyMessage : abcDone.phase ≠ .fault ∧ State.reset.phase ≠ .fault := by decide

/-- INV3 of the empty message. -/
theorem absorbed_empty : Absorbed [] s0 := by
  refine ⟨rfl, rfl, rfl, fun i hi => absurd hi (by simp), ?_⟩
  change initAcc = foldBlocks 0 _ _
  rw [foldBlocks]

/-- INV3 of messages on both sides of the two-block boundary (R162). -/
theorem absorbed_run (n : Fin 4) :
    Absorbed (List.replicate ([0, 55, 56, 63].getD n 0) 0x61) (s0Run (BitVec.ofNat 7 ([0, 55, 56, 63].getD n 0)) 0x61) := by
  have h : ∀ n : Fin 4, ∀ i : Fin 64, i.val < [0, 55, 56, 63].getD n 0 →
      bufRead (s0Run (BitVec.ofNat 7 ([0, 55, 56, 63].getD n 0)) 0x61).buf i = 0x61 := by decide +kernel
  have hc : ∀ n : Fin 4, (BitVec.ofNat 7 ([0, 55, 56, 63].getD n 0)).toNat = [0, 55, 56, 63].getD n 0 ∧
      [0, 55, 56, 63].getD n 0 < 64 := by decide +kernel
  obtain ⟨h1, h2⟩ := hc n
  have hl : (List.replicate ([0, 55, 56, 63].getD n 0) (0x61 : Byte)).length = [0, 55, 56, 63].getD n 0 :=
    List.length_replicate
  refine ⟨rfl, ?_, ?_, fun i hi => ?_, ?_⟩
  · rw [hl, Nat.mod_eq_of_lt h2]; exact h1
  · rw [hl, Nat.div_eq_of_lt h2]; rfl
  · rw [hl, Nat.mod_eq_of_lt h2] at hi
    rw [h n ⟨i, by omega⟩ hi, hl, Nat.div_eq_of_lt h2, List.getD_eq_getElem _ _ (by rw [hl]; omega),
      List.getElem_replicate]
  · rw [hl, Nat.div_eq_of_lt h2, foldBlocks]; rfl

/-- INV3 of 63 bytes, the fullest residue. -/
theorem absorbed_63 : Absorbed (List.replicate 63 0x61) (s0Run 63 0x61) := absorbed_run 3

theorem witness_WriteExtendsTheMessage :
    (bufWf s0.buf ∧ Absorbed [] s0) ∧
    (bufWf (s0Run 63 0x61).buf ∧ Absorbed (List.replicate 63 0x61) (s0Run 63 0x61)) :=
  ⟨⟨by decide, absorbed_empty⟩, ⟨by decide +kernel, absorbed_63⟩⟩

theorem witness_FinalGivesTheDigest :
    (bufWf s0.buf ∧ Absorbed [] s0 ∧ ([] : List Byte).length < 2 ^ 38) ∧
    (bufWf (s0Run 63 0x61).buf ∧ Absorbed (List.replicate 63 0x61) (s0Run 63 0x61) ∧
      (List.replicate 63 (0x61 : Byte)).length < 2 ^ 38) :=
  ⟨⟨by decide, absorbed_empty, by decide⟩, ⟨by decide +kernel, absorbed_63, by decide⟩⟩

/-- Residues 0 and 55 (one block), 56 and 63 (two blocks). -/
theorem witness_PaddedLengthIsWholeBlocks (n : Fin 4) :
    let k := [0, 55, 56, 63].getD n 0
    bufWf (s0Run (BitVec.ofNat 7 k) 0x61).buf ∧ Absorbed (List.replicate k 0x61) (s0Run (BitVec.ofNat 7 k) 0x61) ∧
    (List.replicate k (0x61 : Byte)).length < 2 ^ 38 := by
  have h : ∀ n : Fin 4, bufWf (s0Run (BitVec.ofNat 7 ([0, 55, 56, 63].getD n 0)) 0x61).buf ∧
      [0, 55, 56, 63].getD n 0 < 2 ^ 38 := by decide +kernel
  exact ⟨(h n).1, absorbed_run n, by rw [List.length_replicate]; exact (h n).2⟩

/-- In ABSORB with a WRITE, with INIT and with no word; and in DONE, where no message is held, with INIT. -/
theorem witness_AbsorbAlwaysHoldsAMessage :
    (BoundaryInv (presenting (s0Run 63 0x61) [0x161]) ∧
      Absorbed (List.replicate 63 0x61) (presenting (s0Run 63 0x61) [0x161]) ∧
      ∃ t, step (presenting (s0Run 63 0x61) [0x161]) = .next t) ∧
    (Absorbed (List.replicate 63 0x61) (presenting (s0Run 63 0x61) [0x000]) ∧
      ∃ t, step (presenting (s0Run 63 0x61) [0x000]) = .next t) ∧
    (∃ t, step (s0Run 63 0x61) = .next t) ∧
    (BoundaryInv (presenting abcDone [0x000]) ∧ (presenting abcDone [0x000]).phase ≠ .absorb ∧
      ∃ t, step (presenting abcDone [0x000]) = .next t) :=
  ⟨⟨boundary_s0_63, absorbed_63, _, eq_next_of _ (by decide +kernel)⟩, ⟨absorbed_63, _, eq_next_of _ (by decide +kernel)⟩,
   ⟨_, eq_next_of _ (by decide +kernel)⟩, boundary_abcDone, by decide, _, eq_next_of _ (by decide +kernel)⟩

/-- Two states in ABSORB that differ in the accumulators, the counters and the buffer, before FINAL. -/
theorem witness_HiddenStateStaysHidden :
    let s := presenting s0 [0x200]
    let t := presenting { s0Run 60 0xFF with nblk := 7, acc := ⟨1, 2, 3, 4⟩ } [0x200]
    s.seq = .idle ∧ t.seq = .idle ∧ s.input = t.input ∧ observe s = observe t ∧ s.phase ≠ .done ∧
    (∃ s', step s = .next s') ∧ ∃ t', step t = .next t' := by
  refine ⟨rfl, rfl, rfl, rfl, by decide, ⟨_, eq_next_of _ (by decide +kernel)⟩, ⟨_, eq_next_of _ (by decide +kernel)⟩⟩

theorem witness_InitForgetsThePast : abcDone.phase ≠ .fault ∧ (s0Run 1 0x61).phase ≠ .fault := by decide

/-- The two states and bytes of each of the four commands, at the boundary of a block and of the two-block path. -/
theorem witness_ControlIsDataIndependent :
    ([(s0, { s0 with acc := ⟨1, 2, 3, 4⟩ }, .init, .init),
      (s0Run 63 0x00, s0Run 63 0xFF, .write 0x00, .write 0xFF),
      (s0Run 56 0x00, s0Run 56 0xFF, .final, .final),
      (abcDone, { abcDone with acc := ⟨1, 2, 3, 4⟩ }, .read 0, .read 15)] : List (State × State × Instr × Instr)).all
        (fun x => decide (x.1.phase = x.2.1.phase ∧ x.1.cause = x.2.1.cause ∧ x.1.nblk = x.2.1.nblk ∧ x.1.cnt = x.2.1.cnt ∧
            x.1.lenlo = x.2.1.lenlo ∧ x.1.lenhi = x.2.1.lenhi) &&
          onNext (exec x.2.2.1 x.1) (fun _ => true) && onNext (exec x.2.2.2 x.2.1) (fun _ => true)) = true := by
  decide +kernel

end Sys2Proof.Tests
end

section
/-! PROOF. A machine step inside a fold: the row that STEP selects, then the sequencer; no event is taken from the port
(spec/42_compression.md section 1, spec/30_encoding.md R107). -/

namespace Sys2Proof.Machine

open Sys2Proof

/-- A step inside a fold, as `exec` of the selected step instruction and the sequencer's advance. -/
theorem step_eq_andThen_exec (s : State) (h : s.seq ≠ .idle) (hr : NoReset s) :
    step s = andThen (exec (stepInstr s.stepReg) s) State.stepDone := by
  rw [step, fetch_row s h hr]

/-- A step instruction writes the working registers only, so STEP is still the one that selected it. -/
theorem stepReg_of_exec_stepInstr {i : BitVec 6} {s t : State} (h : exec (stepInstr i) s = .next t) :
    t.stepReg = s.stepReg := by
  rw [exec_stepInstr] at h
  cases h
  exact State.doStep_stepReg ..

/-- CMD_READY is deasserted inside a fold (R107): the pending events stay where they are. -/
theorem input_of_step_row {s t : State} (h : s.seq ≠ .idle) (hr : NoReset s) (ht : step s = .next t) :
    t.input = s.input := by
  rw [step_row s h hr] at ht
  cases ht
  obtain ⟨-, hinput, -⟩ := stepDone_keeps (s.doStep (scheduleRow s.stepReg))
  rw [hinput, State.doStep_input]

/-- Settles O5: the fetch inside a fold is the row of STEP; below 63 the sequencer only counts, and neither the row nor
the sequencer writes the port's events. -/
theorem stepRunsSelectedRow : Obligations.StepRunsSelectedRow := by
  intro s hseq hreset
  refine ⟨step_eq_andThen_exec s hseq hreset, fun h63 t ht => ?_, fun t ht => input_of_step_row hseq hreset ht⟩
  have hstep : t.stepReg = s.stepReg := stepReg_of_exec_stepInstr ht
  rw [stepDone_count t (hstep ▸ h63), hstep]

end Sys2Proof.Machine
end

section
/-! PROOF. PLACELEN's length field, read back as bytes, as message words and as one 8-byte little-endian integer
(spec/20_memory.md R64, R78). -/

namespace Sys2Proof.Machine

open Sys2Proof

/-- Four bytes of the buffer that are the little-endian bytes of a word make it the message word there (R64). -/
theorem messageWord_eq_of_bytes (m : Buffer) (j : Nat) (w : Word)
    (h : ∀ k, k < 4 → bufRead m (4 * j + k) = w.extractLsb' (8 * k) 8) : messageWord m j = w := by
  have h0 : bufRead m (4 * j) = w.extractLsb' 0 8 := h 0 (by decide)
  apply BitVec.eq_of_toNat_eq
  rw [messageWord_toNat, h0, h 1 (by decide), h 2 (by decide), h 3 (by decide)]
  simp only [BitVec.extractLsb'_toNat, Nat.shiftRight_eq_div_pow]
  omega

section
variable (s : State) (h : bufWf s.buf)
include h

/-- The low half of the length field PLACELEN writes (R78). -/
theorem bufRead_placeLen_low {k : Nat} (hk : k < 4) :
    bufRead s.placeLen.buf (56 + k) = s.lenlo.extractLsb' (8 * k) 8 := by
  rw [bufRead_placeLen s _ h, if_neg (by omega), if_pos (by omega), Nat.add_sub_cancel_left]

/-- The high half of the length field PLACELEN writes (R78). -/
theorem bufRead_placeLen_high {k : Nat} (hk : k < 4) :
    bufRead s.placeLen.buf (60 + k) = s.lenhi.extractLsb' (8 * k) 8 := by
  rw [bufRead_placeLen s _ h, if_pos (by omega), Nat.add_sub_cancel_left]

/-- PLACELEN's frame in the buffer. -/
theorem bufRead_placeLen_outside {a : Nat} (ha : a < 56 ∨ 64 ≤ a) : bufRead s.placeLen.buf a = bufRead s.buf a := by
  rw [bufRead_placeLen s _ h, if_neg (by omega), if_neg (by omega)]

end

/-- The two latched words as one 64-bit length: byte `k` of its low half. -/
theorem lengthPair_low_byte (lo hi : Word) {k : Nat} (hk : k < 4) :
    BitVec.ofNat 8 ((hi.toNat * 2 ^ 32 + lo.toNat) / 256 ^ k) = lo.extractLsb' (8 * k) 8 := by
  have hlo : BitVec.ofNat 32 (hi.toNat * 2 ^ 32 + lo.toNat) = lo := by bv_omega
  rw [← lengthLow_byte _ k hk, hlo]

/-- The two latched words as one 64-bit length: byte `k` of its high half. -/
theorem lengthPair_high_byte (lo hi : Word) {k : Nat} (hk : k < 4) :
    BitVec.ofNat 8 ((hi.toNat * 2 ^ 32 + lo.toNat) / 256 ^ (k + 4)) = hi.extractLsb' (8 * k) 8 := by
  have hhi : BitVec.ofNat 32 ((hi.toNat * 2 ^ 32 + lo.toNat) / 2 ^ 32) = hi := by bv_omega
  rw [← lengthHigh_byte _ k hk, hhi]

/-- PLACELEN's two 4-byte stores leave what one 8-byte store of the 64-bit length leaves (R78). -/
theorem bufRead_placeLen_eq_memWrite (s : State) (h : bufWf s.buf) (a : Nat) :
    bufRead s.placeLen.buf a = bufRead (memWrite s.buf 56 8 (s.lenhi.toNat * 2 ^ 32 + s.lenlo.toNat)) a := by
  rw [bufRead_memWrite 8 s.buf 56 a _ h (by decide)]
  have range : (∃ k, k < 4 ∧ a = 56 + k) ∨ (∃ k, k < 4 ∧ a = 60 + k) ∨ (a < 56 ∨ 64 ≤ a) := by
    by_cases hlow : 56 ≤ a ∧ a < 60
    · exact .inl ⟨a - 56, by omega, by omega⟩
    · by_cases hhigh : 60 ≤ a ∧ a < 64
      · exact .inr (.inl ⟨a - 60, by omega, by omega⟩)
      · exact .inr (.inr (by omega))
  obtain ⟨k, hk, rfl⟩ | ⟨k, hk, rfl⟩ | ha := range
  · rw [if_pos (by omega), bufRead_placeLen_low s h hk, Nat.add_sub_cancel_left, lengthPair_low_byte _ _ hk]
  · have offset : 60 + k - 56 = k + 4 := by omega
    rw [if_pos (by omega), bufRead_placeLen_high s h hk, offset, lengthPair_high_byte _ _ hk]
  · rw [if_neg (by omega), bufRead_placeLen_outside s h ha]

/-- Settles O30: the length field byte by byte, then the message words those bytes make, PLACELEN's frame, and the one
8-byte write it equals. -/
theorem lengthFieldLayout : Obligations.LengthFieldLayout := by
  intro s h
  exact ⟨fun k hk => ⟨bufRead_placeLen_low s h hk, bufRead_placeLen_high s h hk⟩,
    messageWord_eq_of_bytes _ 14 _ fun k hk => bufRead_placeLen_low s h hk,
    messageWord_eq_of_bytes _ 15 _ fun k hk => bufRead_placeLen_high s h hk,
    fun a ha => bufRead_placeLen_outside s h ha, bufRead_placeLen_eq_memWrite s h⟩

end Sys2Proof.Machine
end

section
/-! PROOF. Every step keeps the command-boundary invariant (spec/10_state.md R35): one lemma per operation that a step can
end in, one per instruction, then the step itself. -/

namespace Sys2Proof

open Sys2Proof.Machine

/-! ### What the invariant says of one phase, and how to give it -/

/-- Outside FAULT no cause is recorded (R35 INV5). -/
theorem BoundaryInv.cause_eq_zero {s : State} (h : BoundaryInv s) (hp : s.phase ≠ .fault) : s.cause = 0 := by
  obtain ⟨-, -, -, -, hfault, -, -⟩ := h
  exact of_not_not fun hc => hp (hfault.mpr hc)

theorem boundaryInv_of_absorb {s : State} (hseq : s.seq = .idle) (hbuf : bufWf s.buf) (hp : s.phase = .absorb)
    (hcnt : s.cnt.toNat ≤ 63) (hcause : s.cause = 0) (hrsp : s.rsp = none) : BoundaryInv s := by
  refine ⟨hseq, hbuf, fun _ => hcnt, ?_, ?_, ?_, ?_⟩ <;> simp [hp, hcause, hrsp]

theorem boundaryInv_of_done {s : State} (hseq : s.seq = .idle) (hbuf : bufWf s.buf) (hp : s.phase = .done)
    (hcnt : s.cnt = 0) (hdigest : ∀ i, i < 16 → bufRead s.buf i = digestByte s.acc i) (hcause : s.cause = 0)
    (hrsp : s.rsp = none) : BoundaryInv s := by
  refine ⟨hseq, hbuf, ?_, fun _ => ⟨hcnt, hdigest⟩, ?_, ?_, ?_⟩ <;> simp [hp, hcause, hrsp]

/-! ### The operations -/

/-- The invariant does not speak of the events still to come. -/
theorem BoundaryInv.withInput {s : State} (h : BoundaryInv s) (rest : List PortEvent) :
    BoundaryInv { s with input := rest } := h

/-- Dropping the response keeps the invariant in every phase. -/
theorem BoundaryInv.silent {s : State} (h : BoundaryInv s) : BoundaryInv s.silent := by
  obtain ⟨hseq, hbuf, habsorb, hdone, hfault, hcause, -⟩ := h
  exact ⟨hseq, hbuf, habsorb, hdone, hfault, hcause, by simp⟩

/-- Violation entry records a code from 1 to 5 and enters FAULT, where neither CNT nor the digest is bound (R274). -/
theorem BoundaryInv.violation {s : State} (h : BoundaryInv s) (k : Violation) : BoundaryInv (s.violation k) := by
  obtain ⟨hseq, hbuf, -, -, -, -, -⟩ := h
  refine ⟨hseq, hbuf, ?_, ?_, iff_of_true rfl k.code_ne_zero, k.code_range.2, ?_⟩ <;> simp

/-- The reset event gives the boundary state UNINIT, whatever was going on (R300, R311). -/
theorem boundaryInv_resetEvent (s : State) : BoundaryInv s.resetEvent := by
  refine ⟨rfl, bufWf_bufClear, ?_, ?_, ?_, ?_, ?_⟩ <;> simp

/-- INIT, outside FAULT, gives the ABSORB state with CNT = 0 (R122). -/
theorem BoundaryInv.initialise {s : State} (h : BoundaryInv s) (hp : s.phase ≠ .fault) :
    BoundaryInv s.silent.initialise := by
  have hcause := h.cause_eq_zero hp
  obtain ⟨hseq, -⟩ := h
  exact boundaryInv_of_absorb hseq bufWf_bufClear rfl (by simp) hcause rfl

/-- READ responds with a byte of BUF[0..15], which in DONE is a digest byte (R126, R35 INV4). -/
theorem BoundaryInv.respond {s : State} (h : BoundaryInv s) (hp : s.phase = .done) (idx : BitVec 4) :
    BoundaryInv (s.silent.respond (bufRead s.buf idx.toNat)) := by
  obtain ⟨hseq, hbuf, habsorb, hdone, hfault, hcause, -⟩ := h
  obtain ⟨-, hdigest⟩ := hdone hp
  refine ⟨hseq, hbuf, habsorb, hdone, hfault, hcause, fun v hv => ⟨hp, idx.toNat, idx.isLt, ?_⟩⟩
  rw [State.respond_rsp, Option.some.injEq] at hv
  rw [← hv, hdigest _ idx.isLt, State.respond_acc, State.silent_acc]

/-- The end of WRITE: a full block is folded, so CNT is an address of the buffer again (R123, R35 INV2). -/
theorem flushIfFull_cnt_le {s : State} (h : s.cnt.toNat ≤ 64) : s.flushIfFull.cnt.toNat ≤ 63 := by
  unfold State.flushIfFull
  split
  next => simp
  next hne =>
    have hne' : s.cnt.toNat ≠ 64 := fun e => hne (BitVec.eq_of_toNat_eq e)
    omega

/-- WRITE in ABSORB: the byte goes to an address below 64 and CNT comes to 64 at most before the end of WRITE (R123). -/
theorem BoundaryInv.storeFlush {s : State} (h : BoundaryInv s) (hp : s.phase = .absorb) (data : Byte) :
    BoundaryInv { s.silent with buf := bufWrite s.buf s.cnt.toNat data, cnt := s.cnt + 1 }.flushIfFull := by
  have hcause := h.cause_eq_zero (by simp [hp])
  obtain ⟨hseq, hbuf, habsorb, -⟩ := h
  have hcnt := habsorb hp
  obtain ⟨kphase, kcause, kseq, krsp, kbuf, -⟩ :=
    flushIfFull_keeps { s.silent with buf := bufWrite s.buf s.cnt.toNat data, cnt := s.cnt + 1 }
  refine boundaryInv_of_absorb (kseq.trans hseq) ?_ (kphase.trans hp) (flushIfFull_cnt_le ?_) (kcause.trans hcause) krsp
  · rw [kbuf]
    exact bufWf_bufWrite _ hbuf _ (by omega) _
  · rw [cnt_succ_toNat _ hcnt]
    omega

/-- What F3 to F6 of FINAL leave alone. -/
theorem finishFinal_keeps (s : State) :
    s.finishFinal.cause = s.cause ∧ s.finishFinal.seq = s.seq ∧ s.finishFinal.rsp = s.rsp := by
  simp [State.finishFinal]

/-- From the marker on, FINAL leads from a canonical buffer to the DONE state with CNT = 0 and the digest in BUF[0..15]
(R124, R35 INV4). -/
theorem boundaryInv_finishFinal {u : State} (hseq : u.seq = .idle) (hbuf : bufWf u.buf) (hcnt : u.cnt.toNat ≤ 64)
    (hcause : u.cause = 0) (hrsp : u.rsp = none) : BoundaryInv u.padZeros.finishFinal := by
  obtain ⟨pbuf, -, -, pcause, pseq, prsp, -⟩ := padZeros_spec u hbuf hcnt
  obtain ⟨fbuf, fphase, fcnt, -, -, fdigest, -⟩ := finishFinal_spec u.padZeros pbuf
  obtain ⟨kcause, kseq, krsp⟩ := finishFinal_keeps u.padZeros
  exact boundaryInv_of_done (kseq.trans (pseq.trans hseq)) fbuf fphase fcnt fdigest (kcause.trans (pcause.trans hcause))
    (krsp.trans (prsp.trans hrsp))

/-- FINAL in ABSORB: CNT is below 64 at a boundary, so no block is pending and the marker has its place (R124, R163). -/
theorem BoundaryInv.finish {s u : State} (h : BoundaryInv s) (hp : s.phase = .absorb)
    (hu : storeAtCnt Config.padMarker s.silent.flushPending.latchLength = .next u) :
    BoundaryInv u.padZeros.finishFinal := by
  have hcause := h.cause_eq_zero (by simp [hp])
  obtain ⟨hseq, hbuf, habsorb, -⟩ := h
  have hcnt : s.silent.cnt.toNat ≤ 63 := habsorb hp
  rw [flushPending_of_lt _ (by omega)] at hu
  obtain ⟨hlt, rfl⟩ := storeAtCnt_next hu
  refine boundaryInv_finishFinal hseq (bufWf_bufWrite _ hbuf _ hlt _) ?_ hcause rfl
  exact (cnt_succ_toNat _ hcnt).trans_le (by omega)

/-! ### The commands -/

theorem BoundaryInv.exec_init {s t : State} (h : BoundaryInv s) (ht : exec .init s = .next t) : BoundaryInv t := by
  obtain ⟨-, rfl⟩ | ⟨hp, rfl⟩ := exec_init_cases ht
  · exact h.silent
  · exact h.initialise hp

theorem BoundaryInv.exec_write {s t : State} {data : Byte} (h : BoundaryInv s) (ht : exec (.write data) s = .next t) :
    BoundaryInv t := by
  obtain ⟨-, rfl⟩ | ⟨-, rfl⟩ | ⟨-, rfl⟩ | ⟨hp, -, rfl⟩ := exec_write_cases ht
  · exact h.silent
  · exact h.silent.violation _
  · exact h.silent.violation _
  · exact h.storeFlush hp data

theorem BoundaryInv.exec_final {s t : State} (h : BoundaryInv s) (ht : exec .final s = .next t) : BoundaryInv t := by
  obtain ⟨-, rfl⟩ | ⟨-, rfl⟩ | ⟨-, rfl⟩ | ⟨hp, u, hu, rfl⟩ := exec_final_cases ht
  · exact h.silent
  · exact h.silent.violation _
  · exact h.silent.violation _
  · exact h.finish hp hu

theorem BoundaryInv.exec_read {s t : State} {idx : BitVec 4} (h : BoundaryInv s) (ht : exec (.read idx) s = .next t) :
    BoundaryInv t := by
  obtain ⟨-, rfl⟩ | ⟨-, rfl⟩ | ⟨-, rfl⟩ | ⟨hp, rfl⟩ := exec_read_cases ht
  · exact h.silent
  · exact h.silent.violation _
  · exact h.silent.violation _
  · exact h.respond hp idx

theorem BoundaryInv.execReserved {s t : State} (h : BoundaryInv s) (ht : execReserved s = .next t) : BoundaryInv t := by
  obtain ⟨-, rfl⟩ | ⟨-, rfl⟩ := execReserved_cases ht
  · exact h.silent
  · exact h.silent.violation _

/-- Every word's instruction keeps the invariant; the steps of a fold are no word's (R97). -/
theorem BoundaryInv.exec_of_decode {s t : State} {w : BitVec 10} {i : Instr} (h : BoundaryInv s)
    (hd : decodeCommand w = .ok i) (ht : exec i s = .next t) : BoundaryInv t := by
  obtain ⟨-, rfl⟩ | ⟨-, rfl⟩ | ⟨-, rfl⟩ | ⟨-, rfl⟩ := decodeCommand_ok w i hd
  · exact h.exec_init ht
  · exact h.exec_write ht
  · exact h.exec_final ht
  · exact h.exec_read ht

/-- Settles O25: at a boundary a step is the reset event, no change, a reserved word or a command, and each of them keeps
the invariant; a step of a fold it cannot be, since the sequencer is idle. -/
theorem boundaryInvariantKept : Obligations.BoundaryInvariantKept := by
  intro s t h ht
  have ⟨hidle, _⟩ := h
  obtain ⟨rest, -, hs⟩ | ⟨hbusy, -⟩ | ⟨-, -, hs⟩ | ⟨-, w, rest, -, ⟨e, -, hs⟩ | ⟨i, hd, hs⟩⟩ := step_cases s
  · cases hs.symm.trans ht
    exact boundaryInv_resetEvent _
  · exact absurd hidle hbusy
  · cases hs.symm.trans ht
    exact h
  · exact (h.withInput rest).execReserved (hs.symm.trans ht)
  · exact (h.withInput rest).exec_of_decode hd (hs.symm.trans ht)

end Sys2Proof
end

section
/-! PROOF. The command words by their fields: an operand stands in its word as it is (spec/30_encoding.md R90 to R93), the
reserved words are what is left (R94), and the pseudo-instructions are lists of such words (R101 to R104). -/

namespace Sys2Proof

open Sys2Proof.Machine

/-! ### Decoding a word by its row -/

/-- A word of one row is not the word `v` of a full-mask row, when `v` is outside that row (R92). -/
theorem fullMask_ne_of_row {w v mask pattern : BitVec 10} (h : w &&& mask = pattern) (hv : v &&& mask ≠ pattern) :
    w &&& 0x3FF ≠ v := by
  have hfull : w &&& 0x3FF = w := BitVec.and_allOnes
  rw [hfull]
  rintro rfl
  exact hv h

/-- The row of WRITE (R92), whose words the row of INIT before it does not take. -/
theorem decodeCommand_of_write {w : BitVec 10} (h : w &&& 0x300 = 0x100) : decodeCommand w = .ok (.write (immField w)) := by
  rw [decodeCommand, if_neg (fullMask_ne_of_row h (by decide)), if_pos h]

/-- The row of READ (R92), whose words no row before it takes. -/
theorem decodeCommand_of_read {w : BitVec 10} (h : w &&& 0x3F0 = 0x300) : decodeCommand w = .ok (.read (idxField w)) := by
  have hwrite : w &&& 0x300 ≠ 0x100 := by
    have hop : w &&& 0x300 = (w &&& 0x3F0) &&& 0x300 := by rw [BitVec.and_assoc]; rfl
    rw [hop, h]
    decide
  rw [decodeCommand, if_neg (fullMask_ne_of_row h (by decide)), if_neg hwrite,
    if_neg (fullMask_ne_of_row h (by decide)), if_pos h]

/-- The word of R92 for an operand `lo` under the fixed bits `hi` is the two side by side (R90). -/
theorem ofNat_fields_eq_append {m n : Nat} (hi : BitVec m) (lo : BitVec n) :
    BitVec.ofNat (m + n) (hi.toNat * 2 ^ n + lo.toNat) = hi ++ lo := by
  have hcat : (hi ++ lo).toNat = hi.toNat * 2 ^ n + lo.toNat := by
    rw [BitVec.toNat_append, ← Nat.shiftLeft_add_eq_or_of_lt lo.isLt, Nat.shiftLeft_eq]
  rw [← hcat, BitVec.ofNat_toNat, BitVec.setWidth_eq]

/-- WRITE carries its byte in CMD[7:0], used as it is (R93). -/
theorem decodeCommand_writeWord (data : Byte) :
    decodeCommand (BitVec.ofNat 10 (0x100 + data.toNat)) = .ok (.write data) := by
  have hword : BitVec.ofNat 10 (0x100 + data.toNat) = 1#2 ++ data := ofNat_fields_eq_append 1#2 data
  have hrow : (1#2 ++ data) &&& (0x300 : BitVec 10) = 0x100 := by
    change (1#2 ++ data) &&& (3#2 ++ 0#8) = 1#2 ++ 0#8
    rw [BitVec.and_append, BitVec.and_zero]
    rfl
  rw [hword, decodeCommand_of_write hrow, immField, BitVec.extractLsb'_append_eq_right]

/-- READ carries its index in CMD[3:0], used as it is (R93). -/
theorem decodeCommand_readWord (idx : BitVec 4) :
    decodeCommand (BitVec.ofNat 10 (0x300 + idx.toNat)) = .ok (.read idx) := by
  have hword : BitVec.ofNat 10 (0x300 + idx.toNat) = 0x30#6 ++ idx := ofNat_fields_eq_append 0x30#6 idx
  have hrow : (0x30#6 ++ idx) &&& (0x3F0 : BitVec 10) = 0x300 := by
    change (0x30#6 ++ idx) &&& (0x3F#6 ++ 0#4) = 0x30#6 ++ 0#4
    rw [BitVec.and_append, BitVec.and_zero]
    rfl
  rw [hword, decodeCommand_of_read hrow, idxField, BitVec.extractLsb'_append_eq_right]

/-- Settles O8: INIT and FINAL are the one word of their row; WRITE and READ carry their operand as it is. -/
theorem operandsUsedAsTheyStand : Obligations.OperandsUsedAsTheyStand :=
  ⟨rfl, rfl, decodeCommand_writeWord, decodeCommand_readWord⟩

/-! ### The reserved words -/

/-- The cause codes of UNINIT single out the reserved words (R94). -/
theorem violationCause_uninit_eq_five {w : BitVec 10} : violationCause .uninit w = some 5 ↔ reservedWord w := by
  rw [violationCause]
  split_ifs with hreserved hinit
  · exact iff_of_true rfl hreserved
  · exact iff_of_false (by simp) hreserved
  · exact iff_of_false (by simp) hreserved

/-- The words with no instruction are those of the three ranges (R94): a word that decodes to a command has no cause 5 in
UNINIT, one that does not has it. -/
theorem decodeCommand_error_iff (w : BitVec 10) : (∃ e, decodeCommand w = .error e) ↔ reservedWord w := by
  obtain ⟨herror, hinit, hwrite, hfinal, hread⟩ := violationCause_of_decode w
  rw [← violationCause_uninit_eq_five]
  constructor
  · rintro ⟨e, he⟩
    exact herror e he .uninit (by simp)
  · intro hfive
    cases hd : decodeCommand w with
    | error e => exact ⟨e, rfl⟩
    | ok i =>
      exfalso
      obtain ⟨-, rfl⟩ | ⟨-, rfl⟩ | ⟨-, rfl⟩ | ⟨-, rfl⟩ := decodeCommand_ok w i hd
      · simp [hinit hd] at hfive
      · simp [hwrite _ hd, Violation.code] at hfive
      · simp [hfinal hd, Violation.code] at hfive
      · simp [hread _ hd, Violation.code] at hfive

/-- An idle engine gives an accepted reserved word to the reserved-word entry. -/
theorem step_of_reserved {s : State} {w : BitVec 10} {rest : List PortEvent} {e : ReservedWord} (hidle : s.seq = .idle)
    (hinput : s.input = .command w :: rest) (he : decodeCommand w = .error e) :
    step s = execReserved { s with input := rest } := by
  obtain ⟨r, hr, -⟩ | ⟨hbusy, -⟩ | ⟨-, hr, -⟩ | ⟨-, w', r, hr, ⟨e', -, hs⟩ | ⟨i, hd, -⟩⟩ := step_cases s
  · cases hr.symm.trans hinput
  · exact absurd hidle hbusy
  · cases hr.symm.trans hinput
  · cases hr.symm.trans hinput
    exact hs
  · cases hr.symm.trans hinput
    cases hd.symm.trans he

/-- Settles O7: the ranges through the table of cause codes; the step is the violation entry of cause 5. -/
theorem reservedWordsExactly : Obligations.ReservedWordsExactly := by
  refine ⟨decodeCommand_error_iff, fun s w rest e hidle hinput hp he => ?_⟩
  exact (step_of_reserved hidle hinput he).trans (execReserved_violates { s with input := rest } hp)

/-! ### The pseudo-instructions -/

/-- The word WRITES lists for a byte is the WRITE of that byte (R101). -/
theorem decodeCommand_writes_word (v : Byte) : decodeCommand (0x100 + v.setWidth 10) = .ok (.write v) := by
  have hword : 0x100 + v.setWidth 10 = BitVec.ofNat 10 (0x100 + v.toNat) := by bv_omega
  rw [hword, decodeCommand_writeWord]

/-- The word DIGEST lists in place `i` is READ `i` (R102). -/
theorem decodeCommand_digest_word {i : Nat} (hi : i < 16) :
    decodeCommand (0x300 + BitVec.ofNat 10 i) = .ok (.read (BitVec.ofNat 4 i)) := by
  have hidx : (BitVec.ofNat 4 i).toNat = i := by rw [BitVec.toNat_ofNat, Nat.mod_eq_of_lt hi]
  have hword : 0x300 + BitVec.ofNat 10 i = BitVec.ofNat 10 (0x300 + (BitVec.ofNat 4 i).toNat) := by
    rw [hidx, BitVec.ofNat_add]
    rfl
  rw [hword, decodeCommand_readWord]

/-- Two chunks written one after the other are the chunk of both (R101). -/
theorem writesWords_append (x y : List Byte) : writesWords (x ++ y) = writesWords x ++ writesWords y := List.map_append

theorem writesWords_decode_cons (v : Byte) (l : List Byte) :
    (writesWords (v :: l)).map decodeCommand = .ok (.write v) :: (writesWords l).map decodeCommand := by
  rw [writesWords, List.map_cons, List.map_cons, decodeCommand_writes_word, writesWords]

theorem digestWords_decode :
    digestWords.map decodeCommand = (List.range 16).map fun i => .ok (.read (BitVec.ofNat 4 i)) := by
  rw [digestWords, List.map_map]
  exact List.map_congr_left fun i hi => decodeCommand_digest_word (List.mem_range.mp hi)

@[simp] theorem writesWords_length (l : List Byte) : (writesWords l).length = l.length := List.length_map _

@[simp] theorem digestWords_length : digestWords.length = 16 := rfl

/-- HASH is one INIT, a WRITE for each byte, one FINAL and the 16 READs (R104). -/
theorem hashWords_eq (l : List Byte) : hashWords l = [0x000] ++ writesWords l ++ [0x200] ++ digestWords := by
  simp [hashWords]

theorem hashWords_length (l : List Byte) : (hashWords l).length = l.length + 18 := by
  simp [hashWords]

/-- Settles O13: WRITES is a map over its bytes, DIGEST lists the 16 READs, and HASH joins them between INIT and FINAL. -/
theorem pseudoInstructionsExpand : Obligations.PseudoInstructionsExpand :=
  ⟨rfl, writesWords_append, writesWords_decode_cons, digestWords_decode, fun l => ⟨hashWords_eq l, hashWords_length l⟩⟩

end Sys2Proof
end

section
/-! PROOF. The host commands INIT, WRITE and READ, each with its whole next state in every phase (spec/40_host_commands.md
R122, R123, R126). -/

namespace Sys2Proof.Machine

open Sys2Proof

/-! ### WRITE -/

/-- The end of WRITE does nothing while the block is incomplete. -/
theorem flushIfFull_of_lt {s : State} (h : s.cnt.toNat < 64) : s.flushIfFull = s := by
  have hne : s.cnt ≠ 64 := fun e => absurd h (by rw [e]; decide)
  rw [State.flushIfFull, if_neg hne]

/-- The end of WRITE folds the complete block. -/
theorem flushIfFull_of_full {s : State} (h : s.cnt = 64) : s.flushIfFull = s.flush := by
  rw [State.flushIfFull, if_pos h]

/-- What the store at CNT leaves in ABSORB, before the end of WRITE (R123). -/
def State.appended (data : Byte) (s : State) : State :=
  { s with buf := bufWrite s.buf s.cnt.toNat data, cnt := s.cnt + 1, rsp := none }

section
variable {s : State} (data : Byte)

/-- WRITE in ABSORB answers a next state whenever CNT is an address of the buffer. -/
theorem exec_write_eq_flushIfFull (hp : s.phase = .absorb) (hc : s.cnt.toNat ≤ 63) :
    exec (.write data) s = .next (s.appended data).flushIfFull := by
  have hstore : storeAtCnt data s.silent = .next (s.appended data) := storeAtCnt_of_lt data s.silent (by simp; omega)
  rw [exec_write_runs data s hp, hstore, andThen_next]

/-- The fold inside WRITE reads the buffer and does not write it. -/
theorem bufRead_flushIfFull_appended (h : bufWf s.buf) (a : Nat) :
    bufRead (s.appended data).flushIfFull.buf a = if a = s.cnt.toNat then data else bufRead s.buf a := by
  obtain ⟨-, -, -, -, hbuf, -⟩ := flushIfFull_keeps (s.appended data)
  rw [hbuf]
  exact bufRead_bufWrite s.buf h.1 _ a data

/-- WRITE before the last byte of a block: the byte, CNT and the response, nothing else. -/
theorem flushIfFull_appended_of_lt (hc : s.cnt.toNat < 63) : (s.appended data).flushIfFull = s.appended data := by
  have hcnt : (s.cnt + 1).toNat = s.cnt.toNat + 1 := cnt_succ_toNat s.cnt hc.le
  exact flushIfFull_of_lt (hcnt.trans_lt (by omega))

/-- WRITE of the 64th byte is FLUSH after the store. -/
theorem flushIfFull_appended_of_last (hc : s.cnt.toNat = 63) :
    (s.appended data).flushIfFull = (s.appended data).flush := by
  have hcnt : (s.cnt + 1).toNat = s.cnt.toNat + 1 := cnt_succ_toNat s.cnt hc.le
  exact flushIfFull_of_full (BitVec.eq_of_toNat_eq (hcnt.trans (by rw [hc]; rfl)))

/-- The block that the 64th WRITE folds is the 63 bytes that stood there and the new one. -/
theorem flush_appended_acc (h : bufWf s.buf) (hc : s.cnt.toNat = 63) :
    (s.appended data).flush.acc = specFold s.acc (bufBytes s.buf 63 ++ [data]) := by
  rw [State.flush_acc, foldAcc_eq_specFold, ← bufBytes_write_last s.buf h, ← hc]
  rfl

end

/-- Settles O15: in ABSORB the byte is stored and the end of WRITE folds exactly when CNT was 63; elsewhere dispatch
raises the violation of the phase or ignores the word. -/
theorem writeAppendsByte : Obligations.WriteAppendsByte := by
  refine ⟨decodeCommand_writeWord, fun s data hp hbuf hc => ?_, fun s data => ⟨fun hp => ?_, fun hp => ?_, fun hp => ?_⟩⟩
  · have hread := bufRead_flushIfFull_appended data hbuf
    refine ⟨_, exec_write_eq_flushIfFull data hp hc, (hread _).trans (if_pos rfl),
      fun a ha => (hread a).trans (if_neg ha), fun hlt => ?_, fun hlast => ?_⟩
    · rw [flushIfFull_appended_of_lt data hlt]
      rfl
    · rw [flushIfFull_appended_of_last data hlast, ← flush_appended_acc data hbuf hlast]
      rfl
  · exact exec_write_violates data s .uninit (by rw [hp]; rfl)
  · exact exec_write_violates data s .writeAfterFinal (by rw [hp]; rfl)
  · exact exec_write_fault data s hp

/-! ### INIT -/

/-- INIT again, in the state INIT leaves, changes nothing (R122). -/
theorem exec_init_initialise (s : State) : exec .init s.silent.initialise = .next s.silent.initialise :=
  exec_init_runs s.silent.initialise (by simp)

/-- Settles O14: outside FAULT dispatch runs the body of INIT, which writes what the statement lists. -/
theorem initGivesFreshState : Obligations.InitGivesFreshState :=
  ⟨rfl, fun s hp => ⟨_, exec_init_runs s hp, rfl, bufRead_bufClear, exec_init_initialise s⟩, exec_init_fault⟩

/-! ### READ -/

/-- At a boundary in DONE the first 16 bytes of the buffer are the digest (R35 INV4). -/
theorem bufRead_eq_digestByte_of_done {s : State} (h : BoundaryInv s) (hp : s.phase = .done) (idx : BitVec 4) :
    bufRead s.buf idx.toNat = digestByte s.acc idx.toNat := by
  obtain ⟨-, -, -, hdone, -⟩ := h
  exact (hdone hp).2 _ idx.isLt

/-- Settles O20: READ answers the byte in DONE, and by dispatch the violation of the phase or nothing elsewhere. -/
theorem readRespondsDigestByte : Obligations.ReadRespondsDigestByte := by
  refine ⟨decodeCommand_readWord, fun s idx => ⟨exec_read_runs idx s, fun hp h => bufRead_eq_digestByte_of_done h hp idx,
    fun hp => ?_, fun hp => ?_, exec_read_fault idx s⟩⟩
  · exact exec_read_violates idx s .uninit (by rw [hp]; rfl)
  · exact exec_read_violates idx s .readBeforeFinal (by rw [hp]; rfl)

end Sys2Proof.Machine
end

section
/-! PROOF. FLUSH, LENGTH and the number of blocks that padding makes of a message (spec/41_padding_length.md R150, R153,
R162). -/

namespace Sys2Proof.Machine

open Sys2Proof

/-! ### FLUSH -/

/-- FLUSH counts its block modulo 2^32 (R150, R27). -/
theorem flush_nblk_toNat (s : State) : s.flush.nblk.toNat = (s.nblk.toNat + 1) % 2 ^ 32 := by
  rw [State.flush_nblk, add32, BitVec.toNat_add]
  rfl

/-- Settles O28: the fold of the 64 buffer bytes, the block counter, and FLUSH's frame field by field. -/
theorem flushFoldsCountsAndEmpties : Obligations.FlushFoldsCountsAndEmpties := by
  intro s
  exact ⟨foldAcc_eq_specFold s.acc s.buf, flush_nblk_toNat s, s.flush_cnt, s.flush_buf, s.flush_phase, s.flush_cause,
    s.flush_lenlo, s.flush_lenhi, s.flush_rsp, s.flush_seq, s.flush_input⟩

/-! ### LENGTH -/

section
variable (nblk : Word) {cnt : BitVec 7} (h : cnt.toNat ≤ 64)
include h

/-- The low length word is the bit length modulo 2^32 (R153). -/
theorem lengthWords_low_toNat :
    (lengthWords nblk cnt).1.toNat = (nblk.toNat * 64 + cnt.toNat) * 8 % 2 ^ 32 := by
  rw [lengthWords_eq nblk cnt h, BitVec.toNat_ofNat]

/-- The high length word is what the low one leaves, unreduced: the bit length is at most 2^41 (R153). -/
theorem lengthWords_high_toNat :
    (lengthWords nblk cnt).2.toNat = (nblk.toNat * 64 + cnt.toNat) * 8 / 2 ^ 32 := by
  have hn := nblk.isLt
  rw [lengthWords_eq nblk cnt h, BitVec.toNat_ofNat, Nat.mod_eq_of_lt (by omega)]

end

/-- Settles O29: the two words are remainder and quotient by 2^32 of a multiple of 8 that is below 2^41 when CNT is at
most 63. -/
theorem lengthIsExact : Obligations.LengthIsExact := by
  intro nblk cnt h
  have hn := nblk.isLt
  rw [lengthWords_low_toNat nblk h, lengthWords_high_toNat nblk h]
  exact ⟨Nat.div_add_mod' _ _, by omega, fun _ => by omega⟩

/-! ### The blocks that FINAL counts -/

/-- PAD counts a block exactly on the two-block path (R156 P2 to P5). -/
theorem padZeros_nblk (s : State) : s.padZeros.nblk = s.nblk + if s.cnt.toNat ≤ 56 then 0 else 1 := by
  by_cases h : s.cnt.toNat ≤ 56
  · rw [padZeros_one s h, State.zeroFill_nblk, if_pos h]
    exact (BitVec.add_zero _).symm
  · rw [padZeros_two s (by omega), State.zeroHead_nblk, State.flush_nblk, State.zeroFill_nblk, if_neg h, add32]

/-- What the marker leaves for the rest of FINAL, after LENGTH (R124, R155). -/
def State.marked (s : State) : State :=
  { s.latchLength with buf := bufWrite s.buf s.cnt.toNat Config.padMarker, cnt := s.cnt + 1, rsp := none }

/-- FINAL in ABSORB with an incomplete block: nothing is pending, and the marker has its place (R124). -/
theorem exec_final_eq_finishFinal {s : State} (hp : s.phase = .absorb) (hc : s.cnt.toNat ≤ 63) :
    exec .final s = .next s.marked.padZeros.finishFinal := by
  have hlt : s.silent.cnt.toNat < 64 := Nat.lt_succ_of_le hc
  rw [exec_final_runs s hp, flushPending_of_lt _ hlt, storeAtCnt_of_lt _ s.silent.latchLength hlt, andThen_next]
  rfl

/-- FINAL counts one block when marker and length fit after the residual bytes, and two when they do not (R162). -/
theorem final_nblk {s : State} (hbuf : bufWf s.buf) (hc : s.cnt.toNat ≤ 63) :
    s.marked.padZeros.finishFinal.nblk = s.nblk + if s.cnt.toNat ≤ 55 then 1 else 2 := by
  have hcnt : s.marked.cnt.toNat = s.cnt.toNat + 1 := cnt_succ_toNat s.cnt hc
  obtain ⟨pbuf, -⟩ := padZeros_spec s.marked (bufWf_bufWrite _ hbuf _ (by omega) _) (by omega)
  obtain ⟨-, -, -, -, hnblk, -⟩ := finishFinal_spec s.marked.padZeros pbuf
  rw [hnblk, padZeros_nblk, hcnt, BitVec.add_assoc]
  by_cases h : s.cnt.toNat ≤ 55
  · rw [if_pos h, if_pos (by omega)]
    rfl
  · rw [if_neg h, if_neg (by omega)]
    rfl

/-! ### The blocks of the padded message -/

/-- The whole blocks of `n` bytes, and one or two more, are the blocks that hold them with marker and length (R162). -/
theorem blocks_add_one_or_two (n : Nat) : n / 64 + (if n % 64 ≤ 55 then 1 else 2) = (n + 8) / 64 + 1 := by
  split <;> omega

/-- Padding makes whole blocks (R162). -/
theorem padded_length_eq_blocks (msg : List Byte) : (padded msg).length = 64 * ((msg.length + 8) / 64 + 1) := by
  rw [padded_length]
  omega

/-- A state that has absorbed `msg` has counted its whole blocks, so what FINAL adds completes the padded message's. -/
theorem nblk_add_of_absorbed {msg : List Byte} {s : State} (h : Absorbed msg s) :
    s.nblk + (if msg.length % 64 ≤ 55 then 1 else 2) = BitVec.ofNat 32 ((msg.length + 8) / 64 + 1) := by
  obtain ⟨-, -, hnblk, -, -⟩ := h
  rw [hnblk, ← blocks_add_one_or_two, BitVec.ofNat_add, apply_ite (BitVec.ofNat 32)]
  rfl

/-- Settles O52: FINAL adds one block or two by CNT, which the absorbed message fixes; then the padded length. -/
theorem paddedLengthIsWholeBlocks : Obligations.PaddedLengthIsWholeBlocks := by
  refine ⟨fun msg s hbuf h _ => ?_, fun msg => ⟨padded_length_eq_blocks msg, ?_, ?_⟩⟩
  · have ⟨hp, hcnt, _⟩ := h
    have hc : s.cnt.toNat ≤ 63 := by omega
    have hfinal := final_nblk hbuf hc
    rw [hcnt] at hfinal
    exact ⟨_, exec_final_eq_finishFinal hp hc, hfinal.trans (nblk_add_of_absorbed h), hfinal⟩
  · rw [padded_length]
    exact Nat.le_add_right _ _
  · rw [padded_length]
    exact Nat.add_lt_add_left (Nat.mod_lt _ (by decide)) _

end Sys2Proof.Machine
end

section
/-! PROOF. The round functions, the step template and its view by physical registers (spec/42_compression.md R185 to
R195). -/

namespace Sys2Proof.Machine

open Sys2Proof

/-! ### The round functions -/

/-- R9's complement, an exclusive or with all ones, is the bitwise one. -/
theorem not32_eq_not (x : Word) : not32 x = ~~~x := BitVec.xor_allOnes

/-- F2 is F1 with its arguments turned (R189). -/
theorem roundFn_r2_eq_r1 (b c d : Word) : roundFn .r2 b c d = roundFn .r1 d b c := rfl

/-- F1 is a bitwise select (R188). -/
theorem getLsbD_roundFn_r1 (b c d : Word) (n : Nat) :
    (roundFn .r1 b c d).getLsbD n = if b.getLsbD n then c.getLsbD n else d.getLsbD n := by
  rw [roundFn_r1, specF1, BitVec.getLsbD_xor, BitVec.getLsbD_and, BitVec.getLsbD_xor]
  cases b.getLsbD n
  case false => simp
  case true => cases c.getLsbD n <;> cases d.getLsbD n <;> rfl

/-- F3 is the parity of the three bits (R190). -/
theorem getLsbD_roundFn_r3 (b c d : Word) (n : Nat) :
    (roundFn .r3 b c d).getLsbD n = (b.getLsbD n ^^ c.getLsbD n ^^ d.getLsbD n) := by
  rw [roundFn_r3, specF3, BitVec.getLsbD_xor, BitVec.getLsbD_xor]

/-- F4 by bits: the complement of `d` is within the 32 bits (R191). -/
theorem getLsbD_roundFn_r4 (b c d : Word) {n : Nat} (hn : n < 32) :
    (roundFn .r4 b c d).getLsbD n = (c.getLsbD n ^^ (b.getLsbD n || !d.getLsbD n)) := by
  rw [roundFn_r4, specF4, BitVec.getLsbD_xor, BitVec.getLsbD_or, BitVec.getLsbD_not, decide_eq_true hn, Bool.true_and]

/-- Settles O33: one truth table per round function; F2's is F1's with the arguments turned. -/
theorem roundFunctionsBitByBit : Obligations.RoundFunctionsBitByBit := fun b c d n hn =>
  ⟨getLsbD_roundFn_r1 b c d n, getLsbD_roundFn_r1 d b c n, getLsbD_roundFn_r3 b c d n, getLsbD_roundFn_r4 b c d hn⟩

/-- F1 in the form with and, or and not (R195): both select by the bits of `b`. -/
theorem roundFn_r1_eq_or32 (b c d : Word) : roundFn .r1 b c d = or32 (and32 b c) (and32 (not32 b) d) := by
  apply BitVec.eq_of_getLsbD_eq
  intro n hn
  rw [getLsbD_roundFn_r1, not32_eq_not, or32, and32, and32, BitVec.getLsbD_or, BitVec.getLsbD_and, BitVec.getLsbD_and,
    BitVec.getLsbD_not, decide_eq_true hn]
  cases b.getLsbD n <;> simp

/-- Settles O34: F1's other form; F2's is that form with the arguments turned and each and-term's factors in the other
order. -/
theorem roundFunctionOtherForms : Obligations.RoundFunctionOtherForms := by
  refine fun b c d => ⟨roundFn_r1_eq_or32 b c d, ?_⟩
  calc roundFn .r2 b c d
      = or32 (and32 d b) (and32 (not32 d) c) := by rw [roundFn_r2_eq_r1, roundFn_r1_eq_or32]
    _ = or32 (and32 b d) (and32 c (not32 d)) := congrArg₂ or32 (BitVec.and_comm d b) (BitVec.and_comm (not32 d) c)

/-! ### The step template -/

/-- Every step writes the working registers only, and as the tables' step does (R185, R186). -/
theorem exec_stepInstr_eq_specStep (i : BitVec 6) (s : State) :
    exec (stepInstr i) s
      = .next { s with work := specStep i.toNat (specWord s.buf (tableG i.toNat)) s.work } := by
  have hrow := stepRoles_scheduleRow ⟨i.toNat, i.isLt⟩
  obtain ⟨hg, -⟩ := scheduleRow_tables ⟨i.toNat, i.isLt⟩
  rw [← step_eq_ofNat i] at hrow hg
  rw [exec_stepInstr, State.doStep, hrow, hg, messageWord_eq_specWord]

/-- Settles O36: `exec` of the selected step is the tables' step; the encoder names its row. -/
theorem everyStepFollowsTheTemplate : Obligations.EveryStepFollowsTheTemplate := fun i s =>
  ⟨exec_stepInstr_eq_specStep i s, encode_stepInstr i⟩

/-! ### The physical registers -/

/-- Before a step whose number is a multiple of 4 each role sits in the register of its own name (R187). -/
theorem physical_of_mod_eq_zero {i : Nat} (h : i % 4 = 0) (w : Working) : physical i w = (w.a, w.b, w.c, w.d) :=
  if_pos h

/-- The role rotation keeps every value in its physical register but the one that is overwritten (R187): a case for each
place in the period of 4. -/
theorem physical_succ_specRoles (i : Nat) (f : Word → Word → Word → Word) (x k : Word) (n : Nat) (w : Working) :
    physical (i + 1) (specRoles f x k n w) = physicalStep i f x k n (physical i w) := by
  have place : (i % 4 = 0 ∧ (i + 1) % 4 = 1) ∨ (i % 4 = 1 ∧ (i + 1) % 4 = 2) ∨
      (i % 4 = 2 ∧ (i + 1) % 4 = 3) ∨ (i % 4 = 3 ∧ (i + 1) % 4 = 0) := by omega
  obtain ⟨h, h'⟩ | ⟨h, h'⟩ | ⟨h, h'⟩ | ⟨h, h'⟩ := place <;>
    simp [physical, physicalStep, physicalNext, specRoles, h, h']

/-- The roles move with period 4 (R187). -/
theorem physical_eq_of_mod_eq {i j : Nat} (h : i % 4 = j % 4) (w : Working) : physical i w = physical j w := by
  rw [physical, physical, h]

/-- The add-back by physical registers: after step 63 the roles sit as before step 0 (R183, R187). -/
theorem addBack_acc_eq_physical (s : State) :
    s.addBack.acc = ⟨s.acc.w0 + (physical 64 s.work).1, s.acc.w1 + (physical 64 s.work).2.1,
      s.acc.w2 + (physical 64 s.work).2.2.1, s.acc.w3 + (physical 64 s.work).2.2.2⟩ := by
  rw [physical_of_mod_eq_zero rfl s.work, State.addBack_acc]
  rfl

/-- The load by physical registers: W0..W3 in that order (R182, R187). -/
theorem physical_enterFold (s : State) (ret : Seq) :
    physical 0 (s.enterFold ret).work = (s.acc.w0, s.acc.w1, s.acc.w2, s.acc.w3) := by
  rw [physical_of_mod_eq_zero rfl, State.enterFold_work]
  rfl

/-- Settles O45: a step by roles is a step by physical registers, so `exec` of a step is one; the load and the add-back
meet each role in the register of its own name. -/
theorem physicalRegistersView : Obligations.PhysicalRegistersView :=
  ⟨fun i s => ⟨_, exec_stepInstr_eq_specStep i s, physical_succ_specRoles i.toNat _ _ _ _ s.work⟩,
    fun s ret => ⟨physical_enterFold s ret, addBack_acc_eq_physical s⟩,
    physical_succ_specRoles,
    fun w => ⟨physical_eq_of_mod_eq rfl w, physical_of_mod_eq_zero rfl w⟩⟩

end Sys2Proof.Machine
end

section
/-! PROOF. The step schedule (spec/43_step_schedule.md): the properties of its table (R199), and the 64 step rules (R200 to
R263), each one the table's row for its step number. -/

namespace Sys2Proof.Machine

open Sys2Proof

/-! ### The table -/

/-- The rotation amounts of R197 lie in 4..23. -/
theorem tableS_range : ∀ i : Fin 64, 4 ≤ tableS i ∧ tableS i ≤ 23 := by decide

/-- In each round `G` is `m * t + c` modulo 16 with `m` odd, so it takes every value (R198, R199). -/
theorem tableG_surjective : ∀ (r : Fin 4) (g : Fin 16), ∃ t : Fin 16, tableG (16 * r + t) = g := by decide

/-- In round 1 `G` is the identity (R198, R199). -/
theorem tableG_of_lt {t : Nat} (ht : t < 16) : tableG t = t := by
  rw [tableG, if_pos (Nat.div_eq_of_lt ht), Nat.mod_eq_of_lt ht]

theorem tableK_nodup : tableK.Nodup := by decide

/-- No constant of R196 repeats. -/
theorem tableK_injective (i j : Fin 64) (h : tableK.getD i 0 = tableK.getD j 0) : i = j := by
  rw [List.getD_eq_getElem tableK 0 i.isLt, List.getD_eq_getElem tableK 0 j.isLt] at h
  exact Fin.ext (tableK_nodup.getElem_inj_iff.mp h)

/-- Settles O35: the rows are the tables' rows, and the tables have the four properties. -/
theorem scheduleTableProperties : Obligations.ScheduleTableProperties := by
  refine ⟨fun i => ?_, fun r g => ?_, fun t => ?_, fun i j h => ?_⟩
  · obtain ⟨-, hs, -⟩ := scheduleRow_tables i
    exact hs ▸ tableS_range i
  · obtain ⟨t, ht⟩ := tableG_surjective r g
    obtain ⟨hg, -⟩ := scheduleRow_tables ⟨16 * r + t, by omega⟩
    exact ⟨t, hg.trans ht⟩
  · obtain ⟨hg, -⟩ := scheduleRow_tables ⟨t, by omega⟩
    exact hg.trans (tableG_of_lt t.isLt)
  · obtain ⟨-, -, hi, -⟩ := scheduleRow_tables i
    obtain ⟨-, -, hj, -⟩ := scheduleRow_tables j
    exact tableK_injective i j (hi.symm.trans (h.trans hj))

/-! ### The 64 step rules -/

/-- The step that STEP = `i` selects follows the rule of step `i` with the tables' entries for `i` (R185, R187, R196 to
R198). At a numeral `i` the step and the four entries are the literals that its rule names, by evaluation. -/
theorem stepRule_stepInstr (i : BitVec 6) :
    StepRule i.toNat (stepInstr i) (specF i.toNat) (tableG i.toNat) (tableS i.toNat) (tableK.getD i.toNat 0) :=
  ⟨congrArg stepInstr (step_eq_ofNat i).symm, fun s =>
    ⟨exec_stepInstr_eq_specStep i s, physical_succ_specRoles i.toNat _ _ _ _ s.work⟩⟩

/-- Settles O37: the first eight rows of round 1. -/
theorem stepsS00ToS07 : Obligations.StepsS00ToS07 :=
  ⟨stepRule_stepInstr 0, stepRule_stepInstr 1, stepRule_stepInstr 2, stepRule_stepInstr 3,
    stepRule_stepInstr 4, stepRule_stepInstr 5, stepRule_stepInstr 6, stepRule_stepInstr 7⟩

/-- Settles O38: the last eight rows of round 1. -/
theorem stepsS08ToS15 : Obligations.StepsS08ToS15 :=
  ⟨stepRule_stepInstr 8, stepRule_stepInstr 9, stepRule_stepInstr 10, stepRule_stepInstr 11,
    stepRule_stepInstr 12, stepRule_stepInstr 13, stepRule_stepInstr 14, stepRule_stepInstr 15⟩

/-- Settles O39: the first eight rows of round 2. -/
theorem stepsS16ToS23 : Obligations.StepsS16ToS23 :=
  ⟨stepRule_stepInstr 16, stepRule_stepInstr 17, stepRule_stepInstr 18, stepRule_stepInstr 19,
    stepRule_stepInstr 20, stepRule_stepInstr 21, stepRule_stepInstr 22, stepRule_stepInstr 23⟩

/-- Settles O40: the last eight rows of round 2. -/
theorem stepsS24ToS31 : Obligations.StepsS24ToS31 :=
  ⟨stepRule_stepInstr 24, stepRule_stepInstr 25, stepRule_stepInstr 26, stepRule_stepInstr 27,
    stepRule_stepInstr 28, stepRule_stepInstr 29, stepRule_stepInstr 30, stepRule_stepInstr 31⟩

/-- Settles O41: the first eight rows of round 3. -/
theorem stepsS32ToS39 : Obligations.StepsS32ToS39 :=
  ⟨stepRule_stepInstr 32, stepRule_stepInstr 33, stepRule_stepInstr 34, stepRule_stepInstr 35,
    stepRule_stepInstr 36, stepRule_stepInstr 37, stepRule_stepInstr 38, stepRule_stepInstr 39⟩

/-- Settles O42: the last eight rows of round 3. -/
theorem stepsS40ToS47 : Obligations.StepsS40ToS47 :=
  ⟨stepRule_stepInstr 40, stepRule_stepInstr 41, stepRule_stepInstr 42, stepRule_stepInstr 43,
    stepRule_stepInstr 44, stepRule_stepInstr 45, stepRule_stepInstr 46, stepRule_stepInstr 47⟩

/-- Settles O43: the first eight rows of round 4. -/
theorem stepsS48ToS55 : Obligations.StepsS48ToS55 :=
  ⟨stepRule_stepInstr 48, stepRule_stepInstr 49, stepRule_stepInstr 50, stepRule_stepInstr 51,
    stepRule_stepInstr 52, stepRule_stepInstr 53, stepRule_stepInstr 54, stepRule_stepInstr 55⟩

/-- Settles O44: the last eight rows of round 4. -/
theorem stepsS56ToS63 : Obligations.StepsS56ToS63 :=
  ⟨stepRule_stepInstr 56, stepRule_stepInstr 57, stepRule_stepInstr 58, stepRule_stepInstr 59,
    stepRule_stepInstr 60, stepRule_stepInstr 61, stepRule_stepInstr 62, stepRule_stepInstr 63⟩

end Sys2Proof.Machine
end

section
/-! PROOF. What stands outside the normal flow (spec/60_exceptions.md): the violation entry of R274, the FAULT phase of R276
and the idle engine of R285. -/

namespace Sys2Proof

open Sys2Proof.Machine

/-! ### The violation entry -/

/-- Settles O21: in each phase the table of R121 names the violation, and dispatch then enters it and runs no body. -/
theorem illegalCommandRaisesItsCause : Obligations.IllegalCommandRaisesItsCause := by
  refine fun s data idx => ⟨fun huninit => ⟨?_, ?_, ?_⟩, fun hdone => ⟨?_, ?_⟩, fun habsorb => ?_, execReserved_violates s⟩
  · exact exec_write_violates data s .uninit (by rw [huninit]; rfl)
  · exact exec_final_violates s .uninit (by rw [huninit]; rfl)
  · exact exec_read_violates idx s .uninit (by rw [huninit]; rfl)
  · exact exec_write_violates data s .writeAfterFinal (by rw [hdone]; rfl)
  · exact exec_final_violates s .finalTwice (by rw [hdone]; rfl)
  · exact exec_read_violates idx s .readBeforeFinal (by rw [habsorb]; rfl)

/-! ### The FAULT phase -/

/-- In FAULT no command that a word decodes to does anything (R276); the steps of a fold are no word's (R97). -/
theorem exec_of_decode_fault {w : BitVec 10} {i : Instr} {s : State} (hd : decodeCommand w = .ok i)
    (hp : s.phase = .fault) : exec i s = .next s.silent := by
  obtain ⟨-, rfl⟩ | ⟨-, rfl⟩ | ⟨-, rfl⟩ | ⟨-, rfl⟩ := decodeCommand_ok w i hd
  · exact exec_init_fault s hp
  · exact exec_write_fault _ s hp
  · exact exec_final_fault s hp
  · exact exec_read_fault _ s hp

/-- Settles O22: the accepted word is reserved or decodes to a command, and FAULT ignores both. -/
theorem faultIgnoresEveryWord : Obligations.FaultIgnoresEveryWord := by
  intro s w rest hidle hp hinput
  obtain ⟨_, hreset, -⟩ | ⟨hbusy, -⟩ | ⟨-, hnone, -⟩ | ⟨-, w', rest', hword, ⟨e, -, hs⟩ | ⟨i, hd, hs⟩⟩ := step_cases s
  · cases hreset.symm.trans hinput
  · exact absurd hidle hbusy
  · cases hnone.symm.trans hinput
  · cases hword.symm.trans hinput
    exact hs.trans (execReserved_fault { s with input := rest } hp)
  · cases hword.symm.trans hinput
    exact hs.trans (exec_of_decode_fault (s := { s with input := rest }) hd hp)

/-! ### The idle engine -/

/-- Settles O6: with nothing presented an idle engine has no event, no step of a fold and no word to take. -/
theorem idleEngineKeepsState : Obligations.IdleEngineKeepsState := by
  intro s hidle hnone
  obtain ⟨_, hreset, -⟩ | ⟨hbusy, -⟩ | ⟨-, -, hs⟩ | ⟨-, _, _, hword, -⟩ := step_cases s
  · cases hreset.symm.trans hnone
  · exact absurd hidle hbusy
  · exact hs
  · cases hword.symm.trans hnone

end Sys2Proof
end

section
/-! PROOF. Reset and what the host sees of it (spec/70_reset_and_hazards.md R300, R311). -/

namespace Sys2Proof

open Sys2Proof.Machine

/-- An asserted RST decides the step alone: neither the phase nor a fold in progress is consulted (R311). -/
theorem step_of_reset {s : State} {rest : List PortEvent} (hreset : s.input = .reset :: rest) :
    step s = .next { s with input := rest }.resetEvent := by
  rw [step, fetch, hreset]

/-! ### The outputs after a reset event -/

@[simp] theorem phaseOut_resetEvent (s : State) : s.resetEvent.phaseOut = 0 := by
  rw [State.phaseOut, State.resetEvent_phase, Phase.code]

@[simp] theorem causeOut_resetEvent (s : State) : s.resetEvent.causeOut = 0 := by
  rw [State.causeOut, State.resetEvent_cause]

@[simp] theorem cmdReady_resetEvent (s : State) : s.resetEvent.cmdReady = true := by
  rw [State.cmdReady, State.resetEvent_seq, beq_self_eq_true]

/-- Settles O2: the step is the reset event, whose outputs do not depend on the state it abandons; only the events still to
come are kept. -/
theorem resetEventFromAnyState : Obligations.ResetEventFromAnyState := by
  intro s rest hreset
  exact ⟨_, step_of_reset hreset, phaseOut_resetEvent _, causeOut_resetEvent _, cmdReady_resetEvent _,
    State.resetEvent_rsp _, State.resetEvent_input _⟩

end Sys2Proof
end

section
/-! PROOF. Decoding, encoding and the rows of the opcode table say the same (spec/30_encoding.md R92, R97): `decode` inverts
`encode`, every word that decodes is the word of R92 for its instruction, and a row selects what decodes to it. -/

namespace Sys2Proof

open Sys2Proof.Machine

/-! ### Decoding an encoding -/

theorem decodeCommand_encode_read (idx : BitVec 4) : decodeCommand (0x300 + idx.setWidth 10) = .ok (.read idx) := by
  have hword : 0x300 + idx.setWidth 10 = BitVec.ofNat 10 (0x300 + idx.toNat) := by bv_omega
  rw [hword, decodeCommand_readWord]

theorem decode_encode (i : Instr) : decode (encode i) = .ok i := by
  obtain rfl | ⟨data, rfl⟩ | rfl | ⟨idx, rfl⟩ | ⟨n, rfl⟩ := instr_cases i
  · rfl
  · exact decodeCommand_writes_word data
  · rfl
  · exact decodeCommand_encode_read idx
  · rw [encode_stepInstr, decode]

/-- Settles O10: the four command words by their fields, the 64 steps by their row. -/
theorem decodeEncodeAgree : Obligations.DecodeEncodeAgree := fun i _ => decode_encode i

/-! ### The word of a decoded instruction -/

/-- A full mask compares whole words (R92). -/
theorem eq_of_fullMask {w v : BitVec 10} (h : w &&& 0x3FF = v) : w = v := by
  rwa [show w &&& 0x3FF = w from BitVec.and_allOnes] at h

/-- A word in a row whose mask is over its high field is the row's match beside the word's own low field (R92). -/
theorem eq_append_of_highMask {m n : Nat} {w : BitVec (m + n)} {pattern : BitVec m}
    (h : w &&& (BitVec.allOnes m ++ 0#n) = pattern ++ 0#n) : w = pattern ++ w.extractLsb' 0 n := by
  have hsplit : w.extractLsb' n m ++ w.extractLsb' 0 n = w := by
    rw [BitVec.extractLsb'_append_extractLsb'_eq_extractLsb' (Nat.zero_add n).symm, BitVec.extractLsb'_eq_self]
  have hhigh : w.extractLsb' n m = pattern := by
    have h' := congrArg (BitVec.extractLsb' n m) h
    rwa [← hsplit, BitVec.and_append, BitVec.and_allOnes, BitVec.and_zero, BitVec.extractLsb'_append_eq_left,
      BitVec.extractLsb'_append_eq_left] at h'
  rw [← hhigh, hsplit]

/-- A word in the row of WRITE is 0x100 and its low byte (R92, R93). -/
theorem eq_writeWord_of_row {w : BitVec 10} (h : w &&& 0x300 = 0x100) :
    w = BitVec.ofNat 10 (0x100 + (immField w).toNat) :=
  (eq_append_of_highMask (m := 2) (n := 8) (pattern := 1) h).trans (ofNat_fields_eq_append 1#2 (immField w)).symm

/-- A word in the row of READ is 0x300 and its low four bits (R92, R93). -/
theorem eq_readWord_of_row {w : BitVec 10} (h : w &&& 0x3F0 = 0x300) :
    w = BitVec.ofNat 10 (0x300 + (idxField w).toNat) :=
  (eq_append_of_highMask (m := 6) (n := 4) (pattern := 0x30) h).trans (ofNat_fields_eq_append 0x30#6 (idxField w)).symm

/-- A command word that decodes is the word of R92 for its instruction. -/
theorem word_of_decodeCommand {w : BitVec 10} {i : Instr} (h : decodeCommand w = .ok i) :
    (w = 0x000 ∧ i = .init) ∨ (∃ data : Byte, w = BitVec.ofNat 10 (0x100 + data.toNat) ∧ i = .write data) ∨
    (w = 0x200 ∧ i = .final) ∨ ∃ idx : BitVec 4, w = BitVec.ofNat 10 (0x300 + idx.toNat) ∧ i = .read idx := by
  obtain ⟨hrow, rfl⟩ | ⟨hrow, rfl⟩ | ⟨hrow, rfl⟩ | ⟨hrow, rfl⟩ := decodeCommand_ok w i h
  · exact .inl ⟨eq_of_fullMask hrow, rfl⟩
  · exact .inr (.inl ⟨_, eq_writeWord_of_row hrow, rfl⟩)
  · exact .inr (.inr (.inl ⟨eq_of_fullMask hrow, rfl⟩))
  · exact .inr (.inr (.inr ⟨_, eq_readWord_of_row hrow, rfl⟩))

theorem encode_of_decode {sel : Selector} {i : Instr} (h : decode sel = .ok i) : encode i = sel := by
  cases sel with
  | row n =>
    cases h
    exact encode_stepInstr n
  | command w =>
    obtain ⟨rfl, rfl⟩ | ⟨data, rfl, rfl⟩ | ⟨rfl, rfl⟩ | ⟨idx, rfl, rfl⟩ := word_of_decodeCommand h
    · rfl
    · exact congrArg Selector.command (by bv_omega)
    · rfl
    · exact congrArg Selector.command (by bv_omega)

/-- Settles O11: the word of R92 is encoded back, and a value of STEP is the row of its step. -/
theorem encodeDecodeAgree : Obligations.EncodeDecodeAgree := fun _ _ => encode_of_decode

/-! ### The rows of the opcode table -/

/-- The row of an instruction selects its encoding (R92, R97). -/
theorem tableRow_selects_encode (i : Instr) : (tableRow i).selects (encode i) = true := by
  obtain rfl | ⟨data, rfl⟩ | rfl | ⟨idx, rfl⟩ | ⟨n, rfl⟩ := instr_cases i
  · exact Laws.TableMatch.init
  · exact Laws.TableMatch.write data
  · exact Laws.TableMatch.final
  · exact Laws.TableMatch.read idx
  · rw [tableRow_stepInstr, encode_stepInstr, TableRow.selects, beq_iff_eq]
    exact BitVec.and_allOnes

/-- What decodes to an instruction is selected by that instruction's row. -/
theorem selects_of_decode {sel : Selector} {i : Instr} (h : decode sel = .ok i) : (tableRow i).selects sel = true :=
  encode_of_decode h ▸ tableRow_selects_encode i

/-- A row of the command words selects command words only, those with its match under its mask. -/
theorem selects_cmd {pattern mask : BitVec 10} {sel : Selector} (h : (TableRow.cmd pattern mask).selects sel = true) :
    ∃ w, sel = .command w ∧ w &&& mask = pattern := by
  cases sel with
  | command w => exact ⟨w, rfl, eq_of_beq h⟩
  | row n => cases h

/-- A row of the steps selects the one value of STEP that is its match (R97). -/
theorem selects_step {pattern : BitVec 6} {sel : Selector} (h : (TableRow.step pattern).selects sel = true) :
    sel = .row pattern := by
  cases sel with
  | command w => cases h
  | row n =>
    have hmatch : n &&& 0x3F = pattern := eq_of_beq h
    rw [← hmatch]
    exact congrArg Selector.row BitVec.and_allOnes.symm

/-- What the row of an instruction selects decodes to an instruction of that row. -/
theorem decode_of_selects {i : Instr} {sel : Selector} (h : (tableRow i).selects sel = true) :
    ∃ j, decode sel = .ok j ∧ tableRow j = tableRow i := by
  obtain rfl | ⟨data, rfl⟩ | rfl | ⟨idx, rfl⟩ | ⟨n, rfl⟩ := instr_cases i
  · obtain ⟨w, rfl, hrow⟩ := selects_cmd h
    exact ⟨.init, congrArg decodeCommand (eq_of_fullMask hrow), rfl⟩
  · obtain ⟨w, rfl, hrow⟩ := selects_cmd h
    exact ⟨_, decodeCommand_of_write hrow, rfl⟩
  · obtain ⟨w, rfl, hrow⟩ := selects_cmd h
    exact ⟨.final, congrArg decodeCommand (eq_of_fullMask hrow), rfl⟩
  · obtain ⟨w, rfl, hrow⟩ := selects_cmd h
    exact ⟨_, decodeCommand_of_read hrow, rfl⟩
  · rw [tableRow_stepInstr] at h
    exact ⟨stepInstr n, congrArg decode (selects_step h), rfl⟩

/-- Settles O12: a row selects what decodes into it, so two rows that select one selector hold the one instruction that it
decodes to. -/
theorem tableRowSelectsDecode : Obligations.TableRowSelectsDecode := by
  refine ⟨fun i sel => ⟨decode_of_selects, fun ⟨j, hj, hrow⟩ => hrow ▸ selects_of_decode hj⟩, fun i j sel hi hj => ?_⟩
  obtain ⟨i', hdi, hi'⟩ := decode_of_selects hi
  obtain ⟨j', hdj, hj'⟩ := decode_of_selects hj
  cases hdi.symm.trans hdj
  exact hi'.symm.trans hj'

/-! ### The listed words -/

/-- Settles O9: the commands by the words of their operands; the ends of the reserved ranges and the two steps by
evaluation. -/
theorem decodeListedWords : Obligations.DecodeListedWords :=
  ⟨rfl, decodeCommand_writeWord 0x00, decodeCommand_writeWord 0x61, decodeCommand_writeWord 0xff, rfl,
    decodeCommand_readWord 0, decodeCommand_readWord 15, rfl, rfl, rfl, rfl, rfl, rfl, rfl, rfl⟩

end Sys2Proof
end

section
/-! PROOF. What one step can do, with the word and its operand named: `StepEffect`, by one lemma from `step`
(spec/40_host_commands.md R120, R121, spec/60_exceptions.md R274 to R277). -/

namespace Sys2Proof.Machine

open Sys2Proof

/-! ### What a step can do -/

/-- What an accepted word `w` does to the state it was taken in: R120's dispatch, each command with its own next state. -/
inductive WordEffect (w : BitVec 10) (s : State) : State → Prop
  /-- R276: FAULT ignores every word. -/
  | ignored (hp : s.phase = .fault) : WordEffect w s s.silent
  /-- R274: the violation that the table of R121 gives for the word in the phase. -/
  | violates (k : Violation) (hk : violationCause s.phase w = some k.code) : WordEffect w s (s.silent.violation k)
  /-- R122. -/
  | init (hw : w = 0x000) (hp : s.phase ≠ .fault) : WordEffect w s s.silent.initialise
  /-- R123. -/
  | write (data : Byte) (hw : w = BitVec.ofNat 10 (0x100 + data.toNat)) (hp : s.phase = .absorb) (hc : s.cnt.toNat ≤ 63) :
      WordEffect w s (s.appended data).flushIfFull
  /-- R124: `u` is the state after the marker. -/
  | final (u : State) (hw : w = 0x200) (hp : s.phase = .absorb)
      (hu : storeAtCnt Config.padMarker s.silent.flushPending.latchLength = .next u) :
      WordEffect w s u.padZeros.finishFinal
  /-- R126. -/
  | read (idx : BitVec 4) (hw : w = BitVec.ofNat 10 (0x300 + idx.toNat)) (hp : s.phase = .done) :
      WordEffect w s (s.silent.respond (bufRead s.buf idx.toNat))

/-- What a step does: the reset event (R300), a row of the fold in progress (R180), nothing (R285), or what the accepted
word does. -/
inductive StepEffect (s : State) : State → Prop
  | reset (rest : List PortEvent) (hinput : s.input = .reset :: rest) : StepEffect s { s with input := rest }.resetEvent
  | row (hbusy : s.seq ≠ .idle) (hreset : NoReset s) : StepEffect s (s.doStep (scheduleRow s.stepReg)).stepDone
  | nothing (hidle : s.seq = .idle) (hinput : s.input = []) : StepEffect s s
  | word (w : BitVec 10) (rest : List PortEvent) (t : State) (hidle : s.seq = .idle) (hinput : s.input = .command w :: rest)
      (hw : WordEffect w { s with input := rest } t) : StepEffect s t

theorem wordEffect_of_reserved {w : BitVec 10} {e : ReservedWord} {s t : State} (hd : decodeCommand w = .error e)
    (ht : execReserved s = .next t) : WordEffect w s t := by
  obtain ⟨hreserved, -⟩ := violationCause_of_decode w
  obtain ⟨hp, rfl⟩ | ⟨hp, rfl⟩ := execReserved_cases ht
  · exact .ignored hp
  · exact .violates .reserved (hreserved e hd s.phase hp)

theorem wordEffect_of_decode {w : BitVec 10} {i : Instr} {s t : State} (hd : decodeCommand w = .ok i)
    (ht : exec i s = .next t) : WordEffect w s t := by
  obtain ⟨-, -, hwrite, hfinal, hread⟩ := violationCause_of_decode w
  obtain ⟨hw, rfl⟩ | ⟨data, hw, rfl⟩ | ⟨hw, rfl⟩ | ⟨idx, hw, rfl⟩ := word_of_decodeCommand hd
  case inl =>
    obtain ⟨hp, rfl⟩ | ⟨hp, rfl⟩ := exec_init_cases ht
    · exact .ignored hp
    · exact .init hw hp
  case inr.inl =>
    obtain ⟨huninit, -, hdone⟩ := hwrite data hd
    obtain ⟨hp, rfl⟩ | ⟨hp, rfl⟩ | ⟨hp, rfl⟩ | ⟨hp, hc, rfl⟩ := exec_write_cases ht
    · exact .ignored hp
    · exact .violates .uninit (hp ▸ huninit)
    · exact .violates .writeAfterFinal (hp ▸ hdone)
    · exact .write data hw hp (Nat.le_of_lt_succ hc)
  case inr.inr.inl =>
    obtain ⟨huninit, -, hdone⟩ := hfinal hd
    obtain ⟨hp, rfl⟩ | ⟨hp, rfl⟩ | ⟨hp, rfl⟩ | ⟨hp, u, hu, rfl⟩ := exec_final_cases ht
    · exact .ignored hp
    · exact .violates .uninit (hp ▸ huninit)
    · exact .violates .finalTwice (hp ▸ hdone)
    · exact .final u hw hp hu
  case inr.inr.inr =>
    obtain ⟨huninit, habsorb, -⟩ := hread idx hd
    obtain ⟨hp, rfl⟩ | ⟨hp, rfl⟩ | ⟨hp, rfl⟩ | ⟨hp, rfl⟩ := exec_read_cases ht
    · exact .ignored hp
    · exact .violates .uninit (hp ▸ huninit)
    · exact .violates .readBeforeFinal (hp ▸ habsorb)
    · exact .read idx hw hp

/-- Every step that answers a next state is one of these effects. -/
theorem stepEffect_of_step {s t : State} (ht : step s = .next t) : StepEffect s t := by
  obtain ⟨rest, hinput, hs⟩ | ⟨hbusy, hreset, hs⟩ | ⟨hidle, hinput, hs⟩ |
    ⟨hidle, w, rest, hinput, ⟨e, hd, hs⟩ | ⟨i, hd, hs⟩⟩ := step_cases s
  · cases hs.symm.trans ht
    exact .reset rest hinput
  · cases hs.symm.trans ht
    exact .row hbusy hreset
  · cases hs.symm.trans ht
    exact .nothing hidle hinput
  · exact .word w rest t hidle hinput (wordEffect_of_reserved hd (hs.symm.trans ht))
  · exact .word w rest t hidle hinput (wordEffect_of_decode hd (hs.symm.trans ht))

/-! ### What the operations of FINAL leave alone, from every state -/

theorem padZeros_keeps (s : State) :
    s.padZeros.phase = s.phase ∧ s.padZeros.cause = s.cause ∧ s.padZeros.seq = s.seq ∧ s.padZeros.rsp = s.rsp := by
  unfold State.padZeros
  split <;> simp

/-- FINAL in ABSORB comes to DONE without a response; CAUSE and the sequencer stay (R124). -/
theorem final_keeps {s u : State} (hu : storeAtCnt Config.padMarker s.silent.flushPending.latchLength = .next u) :
    u.padZeros.finishFinal.phase = .done ∧ u.padZeros.finishFinal.cause = s.cause ∧
    u.padZeros.finishFinal.seq = s.seq ∧ u.padZeros.finishFinal.rsp = none := by
  obtain ⟨-, rfl⟩ := storeAtCnt_next hu
  obtain ⟨-, hcause, hseq, hrsp, -⟩ := flushPending_keeps s.silent
  obtain ⟨fcause, fseq, frsp⟩ := finishFinal_keeps _
  obtain ⟨-, pcause, pseq, prsp⟩ := padZeros_keeps _
  exact ⟨rfl, fcause.trans (pcause.trans hcause), fseq.trans (pseq.trans hseq), frsp.trans (prsp.trans hrsp)⟩

end Sys2Proof.Machine
end

section
/-! PROOF. The life cycle (spec/10_state.md R25, R26, R35, spec/60_exceptions.md section 1): how PHASE and CAUSE move, that
the buffer stays canonical, and that no boundary state stops the engine. -/

namespace Sys2Proof.Machine

open Sys2Proof

/-! ### PHASE and CAUSE -/

/-- The table of R121 has no violation in FAULT (R276, R278). -/
theorem phase_ne_fault_of_violationCause {p : Phase} {w : BitVec 10} {c : BitVec 3} (h : violationCause p w = some c) :
    p ≠ .fault := by
  rintro rfl
  cases h

/-- Settles O23: of the effects of a step, only those listed end in another phase than they begin in. -/
theorem phaseMovesOnlyAsListed : Obligations.PhaseMovesOnlyAsListed := by
  intro s t ht hmoved
  cases stepEffect_of_step ht with
  | reset rest hinput => exact .inl ⟨rfl, rest, hinput⟩
  | row hbusy hreset =>
    obtain ⟨-, -, -, -, -, hsame | ⟨hdone, hseq, h63⟩⟩ := stepDone_keeps (s.doStep (scheduleRow s.stepReg))
    · exact absurd hsame hmoved
    · exact .inr (.inr (.inr (.inl ⟨hdone, hseq, h63⟩)))
  | nothing => exact absurd rfl hmoved
  | word w rest _ hidle hinput hw =>
    cases hw with
    | ignored => exact absurd rfl hmoved
    | violates k hk => exact .inr (.inr (.inr (.inr ⟨hidle, w, rest, _, hinput, hk, rfl⟩)))
    | init hw hp =>
      subst hw
      exact .inr (.inl ⟨rfl, hidle, hp, rest, hinput⟩)
    | write data hw hp hc => exact absurd (flushIfFull_keeps (State.appended data { s with input := rest })).1 hmoved
    | final u hw hp hu =>
      subst hw
      exact .inr (.inr (.inl ⟨rfl, hidle, hp, rest, hinput⟩))
    | read => exact absurd rfl hmoved

/-- In FAULT an accepted word drops the response and does nothing else (R276). -/
theorem WordEffect.eq_silent_of_fault {w : BitVec 10} {s t : State} (h : WordEffect w s t) (hp : s.phase = .fault) :
    t = s.silent := by
  cases h with
  | ignored => rfl
  | violates k hk => exact absurd hp (phase_ne_fault_of_violationCause hk)
  | init hw hp' => exact absurd hp hp'
  | write data hw hp' hc => cases hp.symm.trans hp'
  | final u hw hp' hu => cases hp.symm.trans hp'
  | read idx hw hp' => cases hp.symm.trans hp'

/-- An accepted word changes CAUSE only as a violation, from 1 to 5 (R271, R274). -/
theorem WordEffect.violation_of_cause_ne {w : BitVec 10} {s t : State} (h : WordEffect w s t) (hc : t.cause ≠ s.cause) :
    s.phase ≠ .fault ∧ t.phase = .fault ∧ 1 ≤ t.cause.toNat ∧ t.cause.toNat ≤ 5 := by
  cases h with
  | ignored => exact absurd rfl hc
  | violates k hk => exact ⟨phase_ne_fault_of_violationCause hk, rfl, k.code_range⟩
  | init => exact absurd rfl hc
  | write data => exact absurd (flushIfFull_keeps (s.appended data)).2.1 hc
  | final u hw hp hu => exact absurd (final_keeps hu).2.1 hc
  | read => exact absurd rfl hc

/-- Settles O24: an accepted word in FAULT does nothing but drop the response; CAUSE is written by the reset event and the
violation entry alone. -/
theorem onlyResetLeavesFault : Obligations.OnlyResetLeavesFault := by
  refine ⟨fun s t ht hidle hp hreset => ?_, fun s t ht hc => ?_⟩
  · cases stepEffect_of_step ht with
    | reset rest hinput => exact absurd hinput (hreset rest)
    | row hbusy => exact absurd hidle hbusy
    | nothing => exact ⟨hp, rfl, rfl, rfl, rfl, rfl, rfl, rfl⟩
    | word w rest _ _ _ hw =>
      rw [hw.eq_silent_of_fault hp]
      exact ⟨hp, rfl, rfl, rfl, rfl, rfl, rfl, rfl⟩
  · cases stepEffect_of_step ht with
    | reset rest hinput => exact .inl ⟨rest, hinput⟩
    | row => exact absurd (stepDone_keeps (s.doStep (scheduleRow s.stepReg))).1 hc
    | nothing => exact absurd rfl hc
    | word w rest _ _ _ hw => exact .inr (hw.violation_of_cause_ne hc)

/-! ### The canonical buffer -/

/-- FINAL keeps the canonical form: the marker's address is below 64, and the rest writes inside the buffer. -/
theorem bufWf_final {s u : State} (h : bufWf s.buf)
    (hu : storeAtCnt Config.padMarker s.silent.flushPending.latchLength = .next u) : bufWf u.padZeros.finishFinal.buf := by
  obtain ⟨-, -, -, -, hbuf, -⟩ := flushPending_keeps s.silent
  obtain ⟨hlt, hmarked⟩ := storeAtCnt_next hu
  have hubuf : bufWf u.buf := by
    rw [hmarked]
    exact bufWf_bufWrite _ (by rwa [State.latchLength_buf, hbuf]) _ hlt _
  have hucnt : u.cnt.toNat ≤ 64 := by
    rw [hmarked]
    exact (cnt_succ_toNat _ (Nat.le_of_lt_succ hlt)).trans_le hlt
  obtain ⟨pbuf, -⟩ := padZeros_spec u hubuf hucnt
  exact (finishFinal_spec _ pbuf).1

theorem WordEffect.bufWf {w : BitVec 10} {s t : State} (h : WordEffect w s t) (hbuf : bufWf s.buf) : bufWf t.buf := by
  cases h with
  | ignored => exact hbuf
  | violates => exact hbuf
  | init => exact bufWf_bufClear
  | write data hw hp hc =>
    obtain ⟨-, -, -, -, hkept, -⟩ := flushIfFull_keeps (s.appended data)
    rw [hkept]
    exact bufWf_bufWrite _ hbuf _ (Nat.lt_succ_of_le hc) _
  | final u hw hp hu => exact bufWf_final hbuf hu
  | read => exact hbuf

/-- Settles O26: each effect of a step writes inside the buffer or clears it. -/
theorem bufferStaysCanonical : Obligations.BufferStaysCanonical := by
  intro s t hbuf ht
  cases stepEffect_of_step ht with
  | reset => exact bufWf_bufClear
  | row => exact bufWf_stepDone _ hbuf
  | nothing => exact hbuf
  | word w rest _ _ _ hw => exact hw.bufWf hbuf

/-! ### The engine answers -/

theorem exec_init_eq_dispatch (s : State) : exec .init s = dispatch .init (fun s => .next s.initialise) s := rfl

theorem exec_write_eq_dispatch (data : Byte) (s : State) :
    exec (.write data) s = dispatch .write (fun s => andThen (storeAtCnt data s) State.flushIfFull) s := rfl

theorem exec_final_eq_dispatch (s : State) :
    exec .final s = dispatch .final
      (fun s => andThen (storeAtCnt Config.padMarker s.flushPending.latchLength) fun s => s.padZeros.finishFinal) s := rfl

theorem exec_read_eq_dispatch (idx : BitVec 4) (s : State) :
    exec (.read idx) s = dispatch .read (fun s => .next (s.respond (loadDirect idx s))) s := rfl

/-- A dispatched command stops only where its own rule stops. -/
theorem dispatch_answers {c : CommandClass} {body : State → Result} {s : State}
    (h : legality c s.phase = .runs → ∃ t, body s.silent = .next t) : ∃ t, dispatch c body s = .next t := by
  obtain ⟨hruns, hd⟩ | ⟨k, -, hd⟩ | ⟨-, hd⟩ := dispatch_cases c body s
  · rw [hd]
    exact h hruns
  · exact ⟨_, hd⟩
  · exact ⟨_, hd⟩

/-- Only in ABSORB do WRITE and FINAL run their own rule (R121). -/
theorem phase_eq_absorb_of_runs {c : CommandClass} {p : Phase} (hclass : c = .write ∨ c = .final)
    (h : legality c p = .runs) : p = .absorb := by
  obtain ⟨rfl, -⟩ | ⟨-, hp⟩ | ⟨-, hp⟩ | ⟨rfl, -⟩ := legality_runs c p h
  · simp at hclass
  · exact hp
  · exact hp
  · simp at hclass

/-- With a CNT that the buffer has in ABSORB (R35 INV2), every word's instruction answers. -/
theorem exec_answers_of_decode {w : BitVec 10} {i : Instr} {s : State} (hd : decodeCommand w = .ok i)
    (hc : s.phase = .absorb → s.cnt.toNat ≤ 63) : ∃ t, exec i s = .next t := by
  obtain ⟨-, rfl⟩ | ⟨data, -, rfl⟩ | ⟨-, rfl⟩ | ⟨idx, -, rfl⟩ := word_of_decodeCommand hd
  · rw [exec_init_eq_dispatch]
    exact dispatch_answers fun _ => ⟨_, rfl⟩
  · rw [exec_write_eq_dispatch]
    refine dispatch_answers fun hruns => ?_
    have hp := phase_eq_absorb_of_runs (.inl rfl) hruns
    exact ⟨_, (exec_write_runs data s hp).symm.trans (exec_write_eq_flushIfFull data hp (hc hp))⟩
  · rw [exec_final_eq_dispatch]
    refine dispatch_answers fun hruns => ?_
    have hp := phase_eq_absorb_of_runs (.inr rfl) hruns
    exact ⟨_, (exec_final_runs s hp).symm.trans (exec_final_eq_finishFinal hp (hc hp))⟩
  · rw [exec_read_eq_dispatch]
    exact dispatch_answers fun _ => ⟨_, rfl⟩

/-- Settles O27: the reset event, a row and an idle step always answer, and an accepted word does because a boundary state
in ABSORB has an address of the buffer in CNT. -/
theorem engineNeverStops : Obligations.EngineNeverStops := by
  intro s hs
  obtain ⟨_, -, hstep⟩ | ⟨-, -, hstep⟩ | ⟨-, -, hstep⟩ | ⟨hidle, w, rest, -, ⟨e, -, hstep⟩ | ⟨i, hd, hstep⟩⟩ := step_cases s
  · exact ⟨_, hstep⟩
  · exact ⟨_, hstep⟩
  · exact ⟨_, hstep⟩
  · rw [hstep]
    exact dispatch_answers fun _ => ⟨_, rfl⟩
  · obtain ⟨-, -, hcnt, -⟩ := hs.resolve_right (not_not.mpr hidle)
    rw [hstep]
    exact exec_answers_of_decode hd hcnt

/-- Settles O19: the store at CNT stops at an address the buffer does not have; FINAL flushes only at 64; INV2. -/
theorem countOutsideBufferStops : Obligations.CountOutsideBufferStops := by
  refine ⟨fun s data hp hc => ?_, fun s hp hc => ?_, fun s hinv ⟨hp, hc⟩ => ?_⟩
  · rw [exec_write_runs data s hp, storeAtCnt_of_ge data s.silent hc, andThen_fault, State.silent_cnt]
  · have hpending : s.silent.flushPending = s.silent := by
      have h64 : s.cnt ≠ 64 := fun h => absurd (h ▸ hc) (by decide)
      exact if_neg h64
    rw [exec_final_runs s hp, hpending, storeAtCnt_of_ge _ s.silent.latchLength (Nat.le_of_succ_le hc), andThen_fault]
    rfl
  · obtain ⟨-, -, hcnt, -⟩ := hinv
    exact absurd (hcnt hp) (Nat.not_le_of_lt hc)

/-! ### Reset, and a step at a boundary -/

/-- Settles O3: the reset state is what the reset event makes of itself. -/
theorem resetMeetsBoundaryInvariant : Obligations.ResetMeetsBoundaryInvariant := boundaryInv_resetEvent State.reset

/-- Settles O1: power-on is a reset with no event presented. -/
theorem powerOnState : Obligations.PowerOnState :=
  ⟨phaseOut_resetEvent State.reset, causeOut_resetEvent State.reset, cmdReady_resetEvent State.reset, rfl⟩

/-- An idle engine runs the instruction of an accepted word. -/
theorem step_of_decoded {s : State} {w : BitVec 10} {rest : List PortEvent} {i : Instr} (hidle : s.seq = .idle)
    (hinput : s.input = .command w :: rest) (hd : decodeCommand w = .ok i) : step s = exec i { s with input := rest } := by
  have hfetch : fetch s = .command w rest := by rw [fetch, hinput]; exact if_pos hidle
  rw [step, hfetch]
  simp only [hd]

/-- Settles O4: the word decodes to an instruction or is reserved. -/
theorem stepRunsDecodedCommand : Obligations.StepRunsDecodedCommand := fun _ _ _ hidle hinput =>
  ⟨fun _ hd => step_of_decoded hidle hinput hd, fun _ he => step_of_reserved hidle hinput he⟩

end Sys2Proof.Machine
end

section
/-! PROOF. Noninterference (spec/60_exceptions.md section 3, spec/70_reset_and_hazards.md section 4): outside DONE the host
sees a function of what it saw and of the event, and a command's control fields depend on control fields alone. -/

namespace Sys2Proof.Machine

open Sys2Proof

/-! ### What the host sees next -/

/-- What the host sees after a word is accepted outside DONE, from PHASE, CAUSE and the word alone (R121, R274, R276). -/
def observedAfterWord (p : Phase) (cause : BitVec 3) (w : BitVec 10) : BitVec 2 × BitVec 3 × Bool × Option Byte :=
  match violationCause p w with
  | some c => (Phase.fault.code, c, true, none)
  | none => ((if p = .fault then Phase.fault else if w = 0x200 then .done else .absorb).code, cause, true, none)

/-- What the host sees after a step of an idle engine outside DONE, from what it saw before and the events presented. -/
def observedAfter (p : Phase) (cause : BitVec 3) (rsp : Option Byte) :
    List PortEvent → BitVec 2 × BitVec 3 × Bool × Option Byte
  | [] => (p.code, cause, true, rsp)
  | .reset :: _ => (Phase.uninit.code, 0, true, none)
  | .command w :: _ => observedAfterWord p cause w

/-- The outputs by the fields behind them (R33, R106). -/
theorem observe_of_fields {s : State} {p : Phase} {c : BitVec 3} {r : Option Byte} (hphase : s.phase = p)
    (hcause : s.cause = c) (hidle : s.seq = .idle) (hrsp : s.rsp = r) : observe s = (p.code, c, true, r) := by
  rw [observe, State.phaseOut, State.causeOut, State.cmdReady, hphase, hcause, hidle, hrsp]
  rfl

theorem observedAfterWord_fault (cause : BitVec 3) (w : BitVec 10) :
    observedAfterWord .fault cause w = (Phase.fault.code, cause, true, none) := rfl

theorem observedAfterWord_violates {p : Phase} {w : BitVec 10} {c : BitVec 3} (h : violationCause p w = some c)
    (cause : BitVec 3) : observedAfterWord p cause w = (Phase.fault.code, c, true, none) := by
  rw [observedAfterWord, h]

theorem observedAfterWord_runs {p : Phase} {w : BitVec 10} (h : violationCause p w = none) (hp : p ≠ .fault)
    (cause : BitVec 3) :
    observedAfterWord p cause w = ((if w = 0x200 then Phase.done else .absorb).code, cause, true, none) := by
  rw [observedAfterWord, h]
  simp only [if_neg hp]

/-- INIT is a violation in no phase (R121). -/
theorem violationCause_init (p : Phase) : violationCause p 0x000 = none := (violationCause_of_decode 0x000).2.1 rfl p

/-- In ABSORB neither WRITE nor FINAL is a violation (R121). -/
theorem violationCause_absorb_write (data : Byte) :
    violationCause .absorb (BitVec.ofNat 10 (0x100 + data.toNat)) = none := by
  obtain ⟨-, -, hwrite, -⟩ := violationCause_of_decode (BitVec.ofNat 10 (0x100 + data.toNat))
  exact (hwrite data (decodeCommand_writeWord data)).2.1

theorem violationCause_absorb_final : violationCause .absorb 0x200 = none := by
  obtain ⟨-, -, -, hfinal, -⟩ := violationCause_of_decode 0x200
  exact (hfinal rfl).2.1

theorem WordEffect.observe_eq {w : BitVec 10} {s t : State} (h : WordEffect w s t) (hidle : s.seq = .idle)
    (hdone : s.phase ≠ .done) : observe t = observedAfterWord s.phase s.cause w := by
  cases h with
  | ignored hp =>
    rw [hp, observedAfterWord_fault]
    exact observe_of_fields hp rfl hidle rfl
  | violates k hk =>
    rw [observedAfterWord_violates hk]
    exact observe_of_fields rfl rfl hidle rfl
  | init hw hp =>
    rw [hw, observedAfterWord_runs (violationCause_init _) hp, if_neg (by decide)]
    exact observe_of_fields rfl rfl hidle rfl
  | write data hw hp hc =>
    obtain ⟨kphase, kcause, kseq, krsp, -⟩ := flushIfFull_keeps (s.appended data)
    have hne : BitVec.ofNat 10 (0x100 + data.toNat) ≠ 0x200 := by bv_omega
    rw [hw, hp, observedAfterWord_runs (violationCause_absorb_write data) (by simp), if_neg hne]
    exact observe_of_fields (kphase.trans hp) kcause (kseq.trans hidle) krsp
  | final u hw hp hu =>
    obtain ⟨kphase, kcause, kseq, krsp⟩ := final_keeps hu
    rw [hw, hp, observedAfterWord_runs violationCause_absorb_final (by simp), if_pos rfl]
    exact observe_of_fields kphase kcause (kseq.trans hidle) krsp
  | read idx hw hp => exact absurd hp hdone

/-- Outside DONE the step of an idle engine shows the host nothing that it could not foretell. -/
theorem observe_step {s t : State} (ht : step s = .next t) (hidle : s.seq = .idle) (hdone : s.phase ≠ .done) :
    observe t = observedAfter s.phase s.cause s.rsp s.input := by
  cases stepEffect_of_step ht with
  | reset rest hinput =>
    rw [hinput]
    exact observe_of_fields rfl rfl rfl rfl
  | row hbusy => exact absurd hidle hbusy
  | nothing _ hinput =>
    rw [hinput]
    exact observe_of_fields rfl rfl hidle rfl
  | word w rest _ _ hinput hw =>
    rw [hinput]
    exact hw.observe_eq hidle hdone

theorem Phase.code_injective (p q : Phase) (h : p.code = q.code) : p = q := by
  revert h
  cases p <;> cases q <;> decide

/-- Settles O53: what is seen next is a function of what is seen now and the events, and PHASE is seen. -/
theorem hiddenStateStaysHidden : Obligations.HiddenStateStaysHidden := by
  intro s t s' t' hs ht hinput hseen hdone hstep hstep'
  obtain ⟨hcode, hcause, -, hrsp⟩ : s.phase.code = t.phase.code ∧ s.cause = t.cause ∧ _ ∧ s.rsp = t.rsp := by
    simpa only [observe, State.phaseOut, State.causeOut, Prod.mk.injEq] using hseen
  have hphase := Phase.code_injective _ _ hcode
  rw [observe_step hstep hs hdone, observe_step hstep' ht (hphase ▸ hdone), hphase, hcause, hrsp, hinput]

/-! ### INIT forgets -/

/-- Settles O54: both next states hold what INIT writes. -/
theorem initForgetsThePast : Obligations.InitForgetsThePast := fun s t hs ht =>
  ⟨_, _, exec_init_runs s hs, exec_init_runs t ht, rfl, rfl, rfl, rfl, rfl, rfl, rfl, rfl, rfl⟩

/-! ### Control is data-independent -/

/-- Two states that agree in what control depends on: the flags, the counters and the length latch. -/
def SameControl (s t : State) : Prop :=
  s.phase = t.phase ∧ s.cause = t.cause ∧ s.nblk = t.nblk ∧ s.cnt = t.cnt ∧ s.lenlo = t.lenlo ∧ s.lenhi = t.lenhi

/-- Two outcomes that, where both are next states, agree in control. -/
def SameControlNext (r r' : Result) : Prop := ∀ s t, r = .next s → r' = .next t → SameControl s t

section
variable {s t : State} (h : SameControl s t)
include h

theorem SameControl.silent : SameControl s.silent t.silent := h

theorem SameControl.respond (v w : Byte) : SameControl (s.respond v) (t.respond w) := h

theorem SameControl.violation (k : Violation) : SameControl (s.violation k) (t.violation k) := by
  obtain ⟨-, -, hnblk, hcnt, hlo, hhi⟩ := h
  exact ⟨rfl, rfl, hnblk, hcnt, hlo, hhi⟩

theorem SameControl.initialise : SameControl s.initialise t.initialise := by
  obtain ⟨-, hcause, -⟩ := h
  exact ⟨rfl, hcause, rfl, rfl, rfl, rfl⟩

theorem SameControl.flush : SameControl s.flush t.flush := by
  obtain ⟨hphase, hcause, hnblk, -, hlo, hhi⟩ := h
  exact ⟨hphase, hcause, congrArg (add32 · 1) hnblk, rfl, hlo, hhi⟩

theorem SameControl.flushIfFull : SameControl s.flushIfFull t.flushIfFull := by
  have ⟨_, _, _, hcnt, _⟩ := h
  unfold State.flushIfFull
  rw [hcnt]
  split
  · exact h.flush
  · exact h

/-- The start of FINAL is the end of WRITE: FLUSH when CNT = 64 (R123, R163). -/
theorem SameControl.flushPending : SameControl s.flushPending t.flushPending := h.flushIfFull

theorem SameControl.latchLength : SameControl s.latchLength t.latchLength := by
  obtain ⟨hphase, hcause, hnblk, hcnt, -, -⟩ := h
  refine ⟨hphase, hcause, hnblk, hcnt, ?_, ?_⟩
  · rw [State.latchLength_lenlo, State.latchLength_lenlo, hnblk, hcnt]
  · rw [State.latchLength_lenhi, State.latchLength_lenhi, hnblk, hcnt]

/-- An operation that gives CNT the same new value in both, and writes no other control field, keeps the agreement. -/
theorem SameControl.withCnt (c : BitVec 7) (m m' : Buffer) :
    SameControl { s with buf := m, cnt := c } { t with buf := m', cnt := c } := by
  obtain ⟨hphase, hcause, hnblk, -, hlo, hhi⟩ := h
  exact ⟨hphase, hcause, hnblk, rfl, hlo, hhi⟩

/-- PAD takes the two-block path by CNT alone (R156). -/
theorem SameControl.padZeros : SameControl s.padZeros t.padZeros := by
  have ⟨_, _, _, hcnt, _⟩ := h
  unfold State.padZeros
  rw [hcnt]
  split
  · exact (h.withCnt 64 _ _).flush.withCnt 56 _ _
  · exact h.withCnt 56 _ _

theorem SameControl.finishFinal : SameControl s.finishFinal t.finishFinal := by
  obtain ⟨-, hcause, hnblk, hcnt, hlo, hhi⟩ := (h.withCnt 64 s.placeLen.buf t.placeLen.buf).flush
  exact ⟨rfl, hcause, hnblk, hcnt, hlo, hhi⟩

theorem SameControl.storeAtCnt (d e : Byte) : SameControlNext (storeAtCnt d s) (storeAtCnt e t) := by
  intro s' t' hs' ht'
  have ⟨_, _, _, hcnt, _⟩ := h
  obtain ⟨-, rfl⟩ := storeAtCnt_next hs'
  obtain ⟨-, rfl⟩ := storeAtCnt_next ht'
  rw [hcnt]
  exact h.withCnt _ _ _

/-- Dispatch goes by PHASE (R120), so two agreeing states take the same branch of it. -/
theorem SameControl.dispatch (c : CommandClass) {body body' : State → Result}
    (hbody : SameControlNext (body s.silent) (body' t.silent)) :
    SameControlNext (dispatch c body s) (dispatch c body' t) := by
  have ⟨hphase, _⟩ := h
  intro s' t' hs' ht'
  obtain ⟨hl, hd⟩ | ⟨k, hl, hd⟩ | ⟨hl, hd⟩ := dispatch_cases c body s <;> rw [hd] at hs'
  · rw [dispatch_of_runs _ (hphase ▸ hl)] at ht'
    exact hbody s' t' hs' ht'
  · rw [dispatch_of_violates _ (hphase ▸ hl)] at ht'
    cases hs'
    cases ht'
    exact h.violation k
  · rw [dispatch_of_ignored _ (hphase ▸ hl)] at ht'
    cases hs'
    cases ht'
    exact h

end

theorem sameControlNext_next {s t : State} (h : SameControl s t) : SameControlNext (.next s) (.next t) := by
  intro s' t' hs' ht'
  cases hs'
  cases ht'
  exact h

theorem SameControlNext.andThen {r r' : Result} {f : State → State} (h : SameControlNext r r')
    (hf : ∀ s t, SameControl s t → SameControl (f s) (f t)) : SameControlNext (andThen r f) (andThen r' f) := by
  intro s' t' hs' ht'
  obtain ⟨u, hu, rfl⟩ := andThen_eq_next hs'
  obtain ⟨v, hv, rfl⟩ := andThen_eq_next ht'
  exact hf u v (h u v hu hv)

section
variable {s t : State} (h : SameControl s t)
include h

theorem SameControl.exec_init : SameControlNext (exec .init s) (exec .init t) := by
  rw [exec_init_eq_dispatch, exec_init_eq_dispatch]
  exact h.dispatch .init (sameControlNext_next h.silent.initialise)

theorem SameControl.exec_write (d e : Byte) : SameControlNext (exec (.write d) s) (exec (.write e) t) := by
  rw [exec_write_eq_dispatch, exec_write_eq_dispatch]
  exact h.dispatch .write ((h.silent.storeAtCnt d e).andThen fun _ _ => SameControl.flushIfFull)

theorem SameControl.exec_final : SameControlNext (exec .final s) (exec .final t) := by
  rw [exec_final_eq_dispatch, exec_final_eq_dispatch]
  exact h.dispatch .final
    ((h.silent.flushPending.latchLength.storeAtCnt _ _).andThen fun _ _ huv => huv.padZeros.finishFinal)

theorem SameControl.exec_read (x y : BitVec 4) : SameControlNext (exec (.read x) s) (exec (.read y) t) := by
  rw [exec_read_eq_dispatch, exec_read_eq_dispatch]
  exact h.dispatch .read (sameControlNext_next (h.silent.respond _ _))

end

/-- Settles O55: each operation of the four commands keeps agreement in control, whatever the operands. -/
theorem controlIsDataIndependent : Obligations.ControlIsDataIndependent := by
  intro s t s' t' d e x y hphase hcause hnblk hcnt hlo hhi hexec
  have h : SameControl s t := ⟨hphase, hcause, hnblk, hcnt, hlo, hhi⟩
  obtain ⟨hs, ht⟩ | ⟨hs, ht⟩ | ⟨hs, ht⟩ | ⟨hs, ht⟩ := hexec
  · exact h.exec_init s' t' hs ht
  · exact h.exec_write d e s' t' hs ht
  · exact h.exec_final s' t' hs ht
  · exact h.exec_read x y s' t' hs ht

end Sys2Proof.Machine
end

section
/-! PROOF. The absorbed message (spec/10_state.md R35, INV3): INIT starts the empty one, WRITE appends its byte, and no other
step leaves a state in ABSORB with another message. -/

namespace Sys2Proof.Machine

open Sys2Proof

/-- INIT leaves no byte, no block and the initial constants (R122). -/
theorem absorbed_nil_initialise (s : State) : Absorbed [] s.initialise := by
  refine ⟨rfl, rfl, rfl, fun i hi => absurd hi (Nat.not_lt_zero i), ?_⟩
  have hnone : ([] : List Byte).length / 64 = 0 := rfl
  rw [hnone, foldBlocks]
  rfl

/-- Settles O49: the state that INIT's own rule leaves. -/
theorem initStartsTheEmptyMessage : Obligations.InitStartsTheEmptyMessage := fun s hp =>
  ⟨_, exec_init_runs s hp, bufWf_bufClear, absorbed_nil_initialise s.silent⟩

/-! ### WRITE -/

/-- CNT stays an address of the buffer while a message is absorbed (R35 INV2). -/
theorem cnt_le_of_absorbed {msg : List Byte} {s : State} (h : Absorbed msg s) : s.cnt.toNat ≤ 63 := by
  obtain ⟨-, hcnt, -⟩ := h
  omega

section
variable {msg : List Byte} {s : State} (data : Byte) (hbuf : bufWf s.buf) (h : Absorbed msg s)
include hbuf h

/-- A byte that does not complete its block joins the residual bytes. -/
theorem absorbed_appended (hlt : msg.length % 64 < 63) : Absorbed (msg ++ [data]) (s.appended data) := by
  have hle := cnt_le_of_absorbed h
  obtain ⟨hp, hcnt, hnblk, hbytes, hacc⟩ := h
  have hmod : (msg ++ [data]).length % 64 = msg.length % 64 + 1 := by rw [List.length_append, List.length_singleton]; omega
  have hdiv : (msg ++ [data]).length / 64 = msg.length / 64 := by rw [List.length_append, List.length_singleton]; omega
  refine ⟨hp, ?_, ?_, fun i hi => ?_, ?_⟩
  · rw [hmod, ← hcnt]
    exact cnt_succ_toNat s.cnt hle
  · rw [hdiv]
    exact hnblk
  · have hread : bufRead (s.appended data).buf i = if i = s.cnt.toNat then data else bufRead s.buf i :=
      bufRead_bufWrite s.buf hbuf.1 _ i data
    rw [hread, hdiv]
    split
    next hlast =>
      have hidx : 64 * (msg.length / 64) + i = msg.length := by omega
      rw [hidx, List.getD_append_right _ _ _ _ le_rfl, Nat.sub_self]
      rfl
    next hother => rw [hbytes i (by omega), List.getD_append _ _ _ _ (by omega)]
  · rw [hdiv, foldBlocks_append _ _ _ _ (by omega)]
    exact hacc

/-- The byte that completes a block has it counted and folded after the blocks before it. -/
theorem absorbed_flush_appended (hlast : msg.length % 64 = 63) :
    Absorbed (msg ++ [data]) (s.appended data).flush := by
  have hres := residual_of_absorbed h
  obtain ⟨hp, hcnt, hnblk, -, hacc⟩ := h
  have hc : s.cnt.toNat = 63 := hcnt.trans hlast
  have hmod : (msg ++ [data]).length % 64 = 0 := by rw [List.length_append, List.length_singleton]; omega
  have hdiv : (msg ++ [data]).length / 64 = msg.length / 64 + 1 := by rw [List.length_append, List.length_singleton]; omega
  refine ⟨hp, ?_, ?_, fun i hi => by omega, ?_⟩
  · rw [hmod]
    rfl
  · rw [hdiv, State.flush_nblk, BitVec.ofNat_add, ← hnblk]
    rfl
  · have hblock : ((msg ++ [data]).drop (64 * (msg.length / 64))).take 64 = bufBytes s.buf 63 ++ [data] := by
      rw [List.drop_append_of_le_length (by omega), ← hres, hc]
      exact List.take_of_length_le (by simp [bufBytes_length])
    rw [hdiv, foldBlocks_add, foldBlocks_append _ _ _ _ (by omega), foldBlocks_one, hblock, ← hacc]
    exact flush_appended_acc data hbuf hc

/-- WRITE appends its byte to the message. -/
theorem absorbed_flushIfFull_appended : Absorbed (msg ++ [data]) (s.appended data).flushIfFull := by
  have ⟨_, hcnt, _⟩ := h
  by_cases hlt : msg.length % 64 < 63
  · rw [flushIfFull_appended_of_lt data (by omega)]
    exact absorbed_appended data hbuf h hlt
  · rw [flushIfFull_appended_of_last data (by omega)]
    exact absorbed_flush_appended data hbuf h (by omega)

end

/-- Settles O50: in ABSORB with CNT below 64 WRITE answers the appended state, flushed if its block is full. -/
theorem writeExtendsTheMessage : Obligations.WriteExtendsTheMessage := by
  intro msg s data hbuf h
  have ⟨hp, _⟩ := h
  refine ⟨_, exec_write_eq_flushIfFull data hp (cnt_le_of_absorbed h), ?_, absorbed_flushIfFull_appended data hbuf h⟩
  obtain ⟨-, -, -, -, hkept, -⟩ := flushIfFull_keeps (s.appended data)
  rw [hkept]
  exact bufWf_bufWrite _ hbuf _ (Nat.lt_succ_of_le (cnt_le_of_absorbed h)) _

/-! ### Every step -/

/-- Settles O56: a step that ends in ABSORB did nothing, or was INIT, or was a WRITE in ABSORB. -/
theorem absorbAlwaysHoldsAMessage : Obligations.AbsorbAlwaysHoldsAMessage := by
  intro s t msg hinv hmsg ht
  refine ⟨boundaryInvariantKept s t hinv ht, fun hp => ?_⟩
  obtain ⟨hseq, hbuf, -⟩ := hinv
  cases stepEffect_of_step ht with
  | reset => cases hp
  | row hbusy => exact absurd hseq hbusy
  | nothing _ hinput => exact .inl ⟨hp, hinput, hmsg hp⟩
  | word w rest _ _ hinput hw =>
    cases hw with
    | ignored hfault => cases hfault.symm.trans hp
    | violates => cases hp
    | init hw hfault =>
      subst hw
      exact .inr (.inl ⟨hfault, absorbed_nil_initialise _, rest, hinput⟩)
    | write data hw habsorb =>
      subst hw
      have h : Absorbed msg { s with input := rest } := hmsg habsorb
      exact .inr (.inr ⟨habsorb, data, rest, hinput, absorbed_flushIfFull_appended data hbuf h⟩)
    | final => cases hp
    | read idx hw hdone => cases hdone.symm.trans hp

end Sys2Proof.Machine
end

section
/-! PROOF. Byte order (spec/20_memory.md section 2): the bytes of a message word, and the digest bytes that SERIALIZE lays
out. -/

namespace Sys2Proof.Machine

open Sys2Proof

/-- Byte `k` of message word `j` is the buffer's byte at `4j + k` (R64). -/
theorem messageWord_byte (m : Buffer) (j : Nat) {k : Nat} (hk : k < 4) :
    (messageWord m j).extractLsb' (8 * k) 8 = bufRead m (4 * j + k) := by
  have h0 := (bufRead m (4 * j)).isLt
  have h1 := (bufRead m (4 * j + 1)).isLt
  have h2 := (bufRead m (4 * j + 2)).isLt
  have h3 := (bufRead m (4 * j + 3)).isLt
  apply BitVec.eq_of_toNat_eq
  rw [BitVec.extractLsb'_toNat, messageWord_toNat, Nat.shiftRight_eq_div_pow]
  have place : k = 0 ∨ k = 1 ∨ k = 2 ∨ k = 3 := by omega
  obtain rfl | rfl | rfl | rfl := place <;> norm_num <;> omega

/-- Settles O32: the bytes of a message word are the buffer's bytes, and the write changes one of them. -/
theorem messageWordsAreLittleEndian : Obligations.MessageWordsAreLittleEndian := by
  intro m j k v hbuf _ hk
  refine ⟨?_, fun k' hk' hne => ?_⟩
  · rw [messageWord_byte _ _ hk, bufRead_bufWrite m hbuf.1, if_pos rfl]
  · rw [messageWord_byte _ _ hk', messageWord_byte _ _ hk', bufRead_bufWrite m hbuf.1, if_neg (by omega)]

/-- Digest byte `4j + k` is byte `k` of Wj (R79). -/
theorem digestByte_word (acc : Accumulators) (j : Nat) {k : Nat} (hk : k < 4) :
    digestByte acc (4 * j + k)
      = (([acc.w0, acc.w1, acc.w2, acc.w3] : List Word).getD j 0).extractLsb' (8 * k) 8 := by
  have hword : (4 * j + k) / 4 = j := by omega
  have hbyte : (4 * j + k) % 4 = k := by omega
  rw [digestByte, hword, hbyte]

/-- SERIALIZE lays the bytes of Wj out at `4j` (R79). -/
theorem bufRead_serialize_word (s : State) (h : bufWf s.buf) {j k : Nat} (hj : j < 4) (hk : k < 4) :
    bufRead s.serialize.buf (4 * j + k)
      = (([s.acc.w0, s.acc.w1, s.acc.w2, s.acc.w3] : List Word).getD j 0).extractLsb' (8 * k) 8 := by
  rw [bufRead_serialize s _ h, if_pos (by omega), digestByte_word _ _ hk]

/-- Settles O31: each word at its own four bytes, and SERIALIZE's frame. -/
theorem digestLayout : Obligations.DigestLayout := by
  refine fun s h => ⟨fun k hk => ⟨?_, ?_, ?_, ?_⟩, fun a ha => ?_⟩
  · exact bufRead_serialize_word s h (j := 0) (by decide) hk
  · exact bufRead_serialize_word s h (j := 1) (by decide) hk
  · exact bufRead_serialize_word s h (j := 2) (by decide) hk
  · exact bufRead_serialize_word s h (j := 3) (by decide) hk
  · rw [bufRead_serialize s _ h, if_neg (by omega)]

end Sys2Proof.Machine
end

section
/-! PROOF. FINAL (spec/40_host_commands.md section 4, spec/41_padding_length.md sections 2 to 7): the padded blocks in the
buffer, the folds over them, and the digest of an absorbed message. -/

namespace Sys2Proof.Machine

open Sys2Proof

/-! ### The bytes of a padded block -/

/-- The bytes of residual bytes `l`, the marker, `z` zeros, and what follows them (R155, R156). -/
theorem getD_marked_block (l f : List Byte) (z a : Nat) :
    (l ++ 0x80 :: (List.replicate z 0 ++ f)).getD a 0
      = if a < l.length then l.getD a 0 else if a = l.length then 0x80
        else if a < l.length + 1 + z then 0 else f.getD (a - (l.length + 1 + z)) 0 := by
  have hsplit : a < l.length ∨ ∃ k, a = l.length + k := by
    by_cases ha : a < l.length
    · exact .inl ha
    · exact .inr ⟨a - l.length, by omega⟩
  obtain hres | ⟨k, rfl⟩ := hsplit
  · rw [List.getD_append _ _ _ _ hres, if_pos hres]
  · rw [List.getD_append_right _ _ _ _ (by omega), Nat.add_sub_cancel_left, if_neg (by omega)]
    cases k with
    | zero => exact (if_pos rfl).symm
    | succ k =>
      rw [List.getD_cons_succ, if_neg (by omega)]
      by_cases hz : k < z
      · rw [List.getD_append _ _ _ _ (by rwa [List.length_replicate]), List.getD_replicate _ hz, if_pos (by omega)]
      · have hidx : l.length + (k + 1) - (l.length + 1 + z) = k - z := by omega
        rw [List.getD_append_right _ _ _ _ (by rw [List.length_replicate]; omega), List.length_replicate,
          if_neg (by omega), hidx]

/-- The marker, `z` zeros and nothing after them. -/
theorem getD_filled_block (l : List Byte) (z a : Nat) :
    (l ++ 0x80 :: List.replicate z 0).getD a 0
      = if a < l.length then l.getD a 0 else if a = l.length then 0x80 else 0 := by
  have h := getD_marked_block l [] z a
  rw [List.append_nil, List.getD_nil, ite_self] at h
  exact h

/-- The bit length that FINAL latches (R151, R153). -/
def State.bitLength (s : State) : Nat := (s.nblk.toNat * 64 + s.cnt.toNat) * 8

/-- The one padded block of at most 55 residual bytes (R162). -/
def State.paddedBlock (s : State) : List Byte :=
  bufBytes s.buf s.cnt.toNat ++ 0x80 :: (List.replicate (55 - s.cnt.toNat) 0 ++ lengthField s.bitLength)

/-- The first of the two blocks of more residual bytes (R157). -/
def State.filledBlock (s : State) : List Byte :=
  bufBytes s.buf s.cnt.toNat ++ 0x80 :: List.replicate (63 - s.cnt.toNat) 0

/-- The second of the two blocks (R157, R159). -/
def State.lengthBlock (s : State) : List Byte := List.replicate 56 0 ++ lengthField s.bitLength

theorem paddedBlock_length {s : State} (h : s.cnt.toNat ≤ 55) : s.paddedBlock.length = 64 := by
  rw [State.paddedBlock, List.length_append, List.length_cons, List.length_append, List.length_replicate, bufBytes_length,
    lengthField_length]
  omega

theorem filledBlock_length {s : State} (h : s.cnt.toNat ≤ 63) : s.filledBlock.length = 64 := by
  rw [State.filledBlock, List.length_append, List.length_cons, List.length_replicate, bufBytes_length]
  omega

theorem lengthBlock_length (s : State) : s.lengthBlock.length = 64 := by
  rw [State.lengthBlock, List.length_append, List.length_replicate, lengthField_length]

/-! ### What FINAL's operations leave in the buffer -/

/-- PLACELEN lays out the bytes of the length whose two words are latched (R78). -/
theorem bufRead_placeLen_lengthField {u : State} (h : bufWf u.buf) {len : Nat} (hlo : u.lenlo = BitVec.ofNat 32 len)
    (hhi : u.lenhi = BitVec.ofNat 32 (len / 2 ^ 32)) {k : Nat} (hk : k < 8) :
    bufRead u.placeLen.buf (56 + k) = (lengthField len).getD k 0 := by
  rw [lengthField_getD _ _ hk]
  by_cases hlow : k < 4
  · rw [bufRead_placeLen_low u h hlow, hlo, lengthLow_byte _ _ hlow]
  · obtain ⟨j, rfl⟩ : ∃ j, k = j + 4 := ⟨k - 4, by omega⟩
    have hplace : 56 + (j + 4) = 60 + j := by omega
    rw [hplace, bufRead_placeLen_high u h (by omega), hhi, lengthHigh_byte _ _ (by omega)]

/-- F3 to F6 of FINAL over a known block (R124). -/
theorem finishFinal_layout {u : State} (h : bufWf u.buf) {blk : List Byte} (hblk : bufBytes u.placeLen.buf 64 = blk) :
    u.finishFinal.acc = specFold u.acc blk ∧
    (∀ a, a < 16 → bufRead u.finishFinal.buf a = digestByte u.finishFinal.acc a) ∧
    (∀ a, 16 ≤ a → a < 64 → bufRead u.finishFinal.buf a = blk.getD a 0) ∧
    (∀ a, 64 ≤ a → bufRead u.finishFinal.buf a = bufRead u.buf a) := by
  obtain ⟨-, -, -, hacc, -, hdigest, hrest⟩ := finishFinal_spec u h
  refine ⟨hblk ▸ hacc, hdigest, fun a ha hlt => ?_, fun a ha => ?_⟩
  · rw [hrest a ha, ← hblk, bufBytes_getD _ _ _ hlt]
  · rw [hrest a (by omega), bufRead_placeLen_outside u h (.inr ha)]

/-- The end of FINAL counts its block, and keeps the length latch and the events still to come (R150, R159). -/
theorem finishFinal_counts (u : State) :
    u.finishFinal.nblk = u.nblk + 1 ∧ u.finishFinal.lenlo = u.lenlo ∧ u.finishFinal.lenhi = u.lenhi ∧
    u.finishFinal.input = u.input := by
  simp [State.finishFinal, add32]

/-- The end of FINAL as one record: what it leaves of `u`, with the fields that the fold writes left open. -/
theorem finishFinal_eq {u : State} {acc : Accumulators} (hacc : u.finishFinal.acc = acc) :
    u.finishFinal = { u with
      acc := acc, nblk := u.nblk + 1, cnt := 0, phase := .done, buf := u.finishFinal.buf, work := u.finishFinal.work,
      stepReg := u.finishFinal.stepReg, folds := u.finishFinal.folds } := by
  obtain ⟨hcause, hseq, hrsp⟩ := finishFinal_keeps u
  obtain ⟨hnblk, hlo, hhi, hinput⟩ := finishFinal_counts u
  exact State.eq_of_fields rfl hacc rfl rfl rfl hcause hnblk rfl hlo hhi rfl hseq hinput hrsp

section
variable {s : State} (hbuf : bufWf s.buf) (hc : s.cnt.toNat ≤ 63)

section
include hc

theorem marked_cnt_toNat : s.marked.cnt.toNat = s.cnt.toNat + 1 := cnt_succ_toNat s.cnt hc

theorem marked_lenlo : s.marked.lenlo = BitVec.ofNat 32 s.bitLength :=
  congrArg Prod.fst (lengthWords_eq s.nblk s.cnt (by omega))

theorem marked_lenhi : s.marked.lenhi = BitVec.ofNat 32 (s.bitLength / 2 ^ 32) :=
  congrArg Prod.snd (lengthWords_eq s.nblk s.cnt (by omega))

end

include hbuf hc

theorem bufWf_marked : bufWf s.marked.buf := bufWf_bufWrite _ hbuf _ (Nat.lt_succ_of_le hc) _

theorem bufWf_marked_zeroFill {limit : BitVec 7} (hlimit : s.cnt.toNat < limit.toNat) (h64 : limit.toNat ≤ 64) :
    bufWf (s.marked.zeroFill limit).buf :=
  bufWf_zeroFill _ _ (bufWf_marked hbuf hc) ((marked_cnt_toNat hc).trans_le hlimit) h64

/-- The residual bytes, the marker, and zeros up to the limit (R155, R156). -/
theorem bufRead_marked_zeroFill {limit : BitVec 7} (hlimit : s.cnt.toNat < limit.toNat) (h64 : limit.toNat ≤ 64) (a : Nat) :
    bufRead (s.marked.zeroFill limit).buf a
      = if a < s.cnt.toNat then bufRead s.buf a else if a = s.cnt.toNat then 0x80
        else if a < limit.toNat then 0 else bufRead s.buf a := by
  have hcnt := marked_cnt_toNat hc
  have hmark : bufRead s.marked.buf a = if a = s.cnt.toNat then 0x80 else bufRead s.buf a := bufRead_bufWrite _ hbuf.1 _ _ _
  rw [bufRead_zeroFill _ _ _ (bufWf_marked hbuf hc) (by omega) h64, hcnt, hmark]
  obtain hres | hat | hzero := Nat.lt_trichotomy a s.cnt.toNat
  · rw [if_neg (by omega), if_neg hres.ne, if_pos hres]
  · rw [if_neg (by omega), if_pos hat, if_neg (by omega), if_pos hat]
  · rw [if_neg hzero.ne', if_neg hzero.not_gt, if_neg hzero.ne']
    exact if_congr (and_iff_right hzero) rfl rfl

/-- Marker and zero-fill write below the limit. -/
theorem bufRead_marked_zeroFill_outside {limit : BitVec 7} (hlimit : s.cnt.toNat < limit.toNat) (h64 : limit.toNat ≤ 64)
    {a : Nat} (ha : 64 ≤ a) : bufRead (s.marked.zeroFill limit).buf a = bufRead s.buf a := by
  rw [bufRead_marked_zeroFill hbuf hc hlimit h64, if_neg (by omega), if_neg (by omega), if_neg (by omega)]

/-- At most 55 residual bytes: PAD and PLACELEN make the one padded block. -/
theorem bufBytes_paddedBlock (h55 : s.cnt.toNat ≤ 55) :
    bufBytes (s.marked.zeroFill 56).placeLen.buf 64 = s.paddedBlock := by
  have hlimit : s.cnt.toNat < (56 : BitVec 7).toNat := Nat.lt_succ_of_le h55
  have hwf := bufWf_marked_zeroFill hbuf hc hlimit (by decide)
  refine bufBytes_eq _ _ _ (paddedBlock_length h55) fun a ha => ?_
  rw [State.paddedBlock, getD_marked_block, bufBytes_length]
  by_cases hlen : a < 56
  · rw [bufRead_placeLen_outside _ hwf (.inl hlen), bufRead_marked_zeroFill hbuf hc hlimit (by decide)]
    have hzeros : a < s.cnt.toNat + 1 + (55 - s.cnt.toNat) := by omega
    rw [if_pos (show a < (56 : BitVec 7).toNat from hlen), if_pos hzeros]
    split_ifs
    · exact (bufBytes_getD _ _ _ ‹_›).symm
    · rfl
    · rfl
  · obtain ⟨k, rfl⟩ : ∃ k, a = 56 + k := ⟨a - 56, by omega⟩
    have hidx : 56 + k - (s.cnt.toNat + 1 + (55 - s.cnt.toNat)) = k := by omega
    rw [bufRead_placeLen_lengthField hwf (marked_lenlo hc) (marked_lenhi hc) (by omega), if_neg (by omega),
      if_neg (by omega), if_neg (by omega), hidx]

/-- More residual bytes: the zero-fill of PAD makes the first of two blocks. -/
theorem bufBytes_filledBlock : bufBytes (s.marked.zeroFill 64).buf 64 = s.filledBlock := by
  have hlimit : s.cnt.toNat < (64 : BitVec 7).toNat := Nat.lt_succ_of_le hc
  refine bufBytes_eq _ _ _ (filledBlock_length hc) fun a ha => ?_
  rw [State.filledBlock, getD_filled_block, bufBytes_length, bufRead_marked_zeroFill hbuf hc hlimit le_rfl,
    if_pos (show a < (64 : BitVec 7).toNat from ha)]
  split_ifs
  · exact (bufBytes_getD _ _ _ ‹_›).symm
  · rfl
  · rfl

/-- After the first of two blocks is folded, P5 of PAD and PLACELEN make the second. -/
theorem bufBytes_lengthBlock : bufBytes (s.marked.zeroFill 64).flush.zeroHead.placeLen.buf 64 = s.lengthBlock := by
  have hwf : bufWf (s.marked.zeroFill 64).flush.buf := bufWf_marked_zeroFill hbuf hc (Nat.lt_succ_of_le hc) le_rfl
  refine bufBytes_eq _ _ _ (lengthBlock_length s) fun a ha => ?_
  rw [State.lengthBlock]
  by_cases hlen : a < 56
  · rw [bufRead_placeLen_outside _ (bufWf_zeroHead _ hwf) (.inl hlen), bufRead_zeroHead _ _ hwf, if_pos hlen,
      List.getD_append _ _ _ _ (by rwa [List.length_replicate]), List.getD_replicate _ hlen]
    rfl
  · obtain ⟨k, rfl⟩ : ∃ k, a = 56 + k := ⟨a - 56, by omega⟩
    rw [bufRead_placeLen_lengthField (bufWf_zeroHead _ hwf) (marked_lenlo hc) (marked_lenhi hc) (by omega),
      List.getD_append_right _ _ _ _ (by rw [List.length_replicate]; omega), List.length_replicate,
      Nat.add_sub_cancel_left]

end

/-! ### FINAL -/

/-- Settles O16: PAD and PLACELEN make the padded block, and the end of FINAL folds it and lays out the digest. -/
theorem finalOneBlock : Obligations.FinalOneBlock := by
  intro s hp hbuf h55
  have hc : s.cnt.toNat ≤ 63 := by omega
  have hlimit : s.cnt.toNat < (56 : BitVec 7).toNat := Nat.lt_succ_of_le h55
  have hwf := bufWf_marked_zeroFill hbuf hc hlimit (by decide)
  have hfinal : exec .final s = .next (s.marked.zeroFill 56).finishFinal := by
    rw [exec_final_eq_finishFinal hp hc, padZeros_one _ ((marked_cnt_toNat hc).trans_le hlimit)]
  obtain ⟨hacc, hdigest, hrest, hframe⟩ := finishFinal_layout hwf (bufBytes_paddedBlock hbuf hc h55)
  refine ⟨_, hfinal, ?_, hdigest, hrest, fun a ha => ?_⟩
  · refine (finishFinal_eq hacc).trans ?_
    rw [State.zeroFill_lenlo, State.zeroFill_lenhi, marked_lenlo hc, marked_lenhi hc]
    rfl
  · rw [hframe a ha, bufRead_marked_zeroFill_outside hbuf hc hlimit (by decide) ha]

/-- Settles O17: PAD makes and folds the first block, PLACELEN the second, which the end of FINAL folds. -/
theorem finalTwoBlocks : Obligations.FinalTwoBlocks := by
  intro s hp hbuf h56 hc
  have hlimit : s.cnt.toNat < (64 : BitVec 7).toNat := Nat.lt_succ_of_le hc
  have hwf : bufWf (s.marked.zeroFill 64).flush.buf := bufWf_marked_zeroFill hbuf hc hlimit le_rfl
  have hfinal : exec .final s = .next (s.marked.zeroFill 64).flush.zeroHead.finishFinal := by
    rw [exec_final_eq_finishFinal hp hc, padZeros_two _ (by rw [marked_cnt_toNat hc]; omega)]
  have hfirst : (s.marked.zeroFill 64).flush.acc = specFold s.acc s.filledBlock := by
    rw [State.flush_acc, foldAcc_eq_specFold, bufBytes_filledBlock hbuf hc]
    rfl
  obtain ⟨hacc, hdigest, hrest, hframe⟩ := finishFinal_layout (bufWf_zeroHead _ hwf) (bufBytes_lengthBlock hbuf hc)
  rw [State.zeroHead_acc, hfirst] at hacc
  refine ⟨_, hfinal, ?_, hdigest, hrest, fun a ha => ?_⟩
  · have hnblk : (s.marked.zeroFill 64).flush.zeroHead.nblk + 1 = s.nblk + 2 := BitVec.add_assoc s.nblk 1 1
    have hlo : (s.marked.zeroFill 64).flush.zeroHead.lenlo = _ := marked_lenlo hc
    have hhi : (s.marked.zeroFill 64).flush.zeroHead.lenhi = _ := marked_lenhi hc
    refine (finishFinal_eq hacc).trans ?_
    rw [hnblk, hlo, hhi]
    rfl
  · rw [hframe a ha, bufRead_zeroHead _ _ hwf, if_neg (by omega), State.flush_buf,
      bufRead_marked_zeroFill_outside hbuf hc hlimit le_rfl ha]

/-- Settles O18: FINAL's own flush gives the state in which nothing is pending, and FINAL from it answers with DONE. -/
theorem finalFromFullBuffer : Obligations.FinalFromFullBuffer := by
  intro s hp hc
  have hpending : s.silent.flushPending = s.flush.silent.flushPending := by
    have hflush : s.silent.flushPending = s.silent.flush := if_pos hc
    rw [hflush, flushPending_of_lt s.flush.silent (by simp)]
    exact State.eq_of_fields rfl rfl rfl rfl rfl rfl rfl rfl rfl rfl rfl rfl rfl rfl
  have hsame : exec .final s = exec .final s.flush := by
    rw [exec_final_runs s hp, exec_final_runs s.flush hp, hpending]
  refine ⟨hsame, ?_, rfl, rfl, s.flush.marked.padZeros.finishFinal, ?_, rfl⟩
  · rw [State.flush_acc, foldAcc_eq_specFold]
  · rw [hsame]
    exact exec_final_eq_finishFinal hp (by simp)

/-! ### The digest of a message -/

/-- The blocks of the padded message are those the state has folded already and those that FINAL folds. -/
theorem messageAcc_of_absorbed {msg : List Byte} {s : State} (h : Absorbed msg s) :
    messageAcc msg
      = foldBlocks (if msg.length % 64 ≤ 55 then 1 else 2) s.acc
          (bufBytes s.buf s.cnt.toNat ++
            0x80 :: (List.replicate ((119 - msg.length % 64) % 64) 0 ++ lengthField (8 * msg.length))) := by
  have hresidual := residual_of_absorbed h
  obtain ⟨-, -, -, -, hacc⟩ := h
  have hblocks : (padded msg).length / 64 = msg.length / 64 + if msg.length % 64 ≤ 55 then 1 else 2 := by
    rw [padded_length_eq_blocks, Nat.mul_div_cancel_left _ (by decide), blocks_add_one_or_two]
  rw [messageAcc, hblocks, foldBlocks_add, padded, foldBlocks_append _ _ _ _ (by omega), ← hacc,
    List.drop_append_of_le_length (by omega), ← hresidual]

/-- FINAL latches the length of an absorbed message of fewer than 2^38 bytes, whose blocks NBLK counts without wrapping. -/
theorem bitLength_of_absorbed {msg : List Byte} {s : State} (h : Absorbed msg s) (hlen : msg.length < 2 ^ 38) :
    s.bitLength = 8 * msg.length := by
  obtain ⟨-, hcnt, hnblk, -, -⟩ := h
  rw [State.bitLength, hcnt, hnblk, BitVec.toNat_ofNat, Nat.mod_eq_of_lt (by omega)]
  omega

section
variable {msg : List Byte} {s : State} (h : Absorbed msg s) (hlen : msg.length < 2 ^ 38)
include h hlen

/-- Up to 55 residual bytes: the padded message ends in the one padded block. -/
theorem messageAcc_one_block (h55 : s.cnt.toNat ≤ 55) : messageAcc msg = specFold s.acc s.paddedBlock := by
  have ⟨_, hcnt, _⟩ := h
  have hzeros : (119 - msg.length % 64) % 64 = 55 - s.cnt.toNat := by omega
  rw [messageAcc_of_absorbed h, if_pos (by omega), hzeros, ← bitLength_of_absorbed h hlen, foldBlocks_one]
  exact congrArg (specFold s.acc) (List.take_of_length_le (paddedBlock_length h55).le)

/-- More residual bytes: it ends in the filled block and the length block. -/
theorem messageAcc_two_blocks (h56 : 56 ≤ s.cnt.toNat) :
    messageAcc msg = specFold (specFold s.acc s.filledBlock) s.lengthBlock := by
  have ⟨_, hcnt, _⟩ := h
  have hzeros : (119 - msg.length % 64) % 64 = (63 - s.cnt.toNat) + 56 := by omega
  have hfilled := filledBlock_length (cnt_le_of_absorbed h)
  have hsplit : bufBytes s.buf s.cnt.toNat ++
      0x80 :: (List.replicate ((63 - s.cnt.toNat) + 56) 0 ++ lengthField s.bitLength) = s.filledBlock ++ s.lengthBlock := by
    simp only [State.filledBlock, State.lengthBlock, List.replicate_add, List.append_assoc, List.cons_append]
  rw [messageAcc_of_absorbed h, if_neg (by omega), hzeros, ← bitLength_of_absorbed h hlen, hsplit, foldBlocks,
    foldBlocks_one, List.take_left' hfilled, List.drop_left' hfilled, 
    List.take_of_length_le (lengthBlock_length s).le]

end

/-- FINAL leaves the padded message folded: by CNT, its last one or two blocks are those that FINAL folds. -/
theorem final_acc_of_absorbed {msg : List Byte} {s : State} (hbuf : bufWf s.buf) (h : Absorbed msg s)
    (hlen : msg.length < 2 ^ 38) : s.marked.padZeros.finishFinal.acc = messageAcc msg := by
  have ⟨hp, _⟩ := h
  have hc := cnt_le_of_absorbed h
  have hfinal := exec_final_eq_finishFinal hp hc
  by_cases h55 : s.cnt.toNat ≤ 55
  · obtain ⟨t, ht, hnext, -⟩ := finalOneBlock s hp hbuf h55
    cases ht.symm.trans hfinal
    exact (congrArg State.acc hnext).trans (messageAcc_one_block h hlen h55).symm
  · have h56 : 56 ≤ s.cnt.toNat := by omega
    obtain ⟨t, ht, hnext, -⟩ := finalTwoBlocks s hp hbuf h56 hc
    cases ht.symm.trans hfinal
    exact (congrArg State.acc hnext).trans (messageAcc_two_blocks h hlen h56).symm

/-- Settles O51: the fold of the padded message, its digest in the buffer, and its blocks counted. -/
theorem finalGivesTheDigest : Obligations.FinalGivesTheDigest := by
  intro msg s hbuf h hlen
  have ⟨hp, hcnt, _⟩ := h
  have hc := cnt_le_of_absorbed h
  have hacc := final_acc_of_absorbed hbuf h hlen
  obtain ⟨pbuf, -, -, pcause, -⟩ := padZeros_spec s.marked (bufWf_marked hbuf hc) ((marked_cnt_toNat hc).trans_le (by omega))
  obtain ⟨-, -, -, -, -, hdigest, -⟩ := finishFinal_spec _ pbuf
  have hcause := (finishFinal_keeps s.marked.padZeros).1.trans pcause
  have hnblk : s.marked.padZeros.finishFinal.nblk = BitVec.ofNat 32 ((padded msg).length / 64) := by
    rw [final_nblk hbuf hc, hcnt, nblk_add_of_absorbed h, padded_length_eq_blocks, Nat.mul_div_cancel_left _ (by decide)]
  exact ⟨_, exec_final_eq_finishFinal hp hc, rfl, hcause, rfl, hacc, hacc ▸ hdigest, hnblk⟩

end Sys2Proof.Machine
end

section
/-! PROOF. The micro-steps of a fold reach what the command's own FOLD gives (spec/41_padding_length.md R161): FLUSH, WRITE
of the 64th byte, and FINAL. -/

namespace Sys2Proof.Machine

open Sys2Proof

/-- Recording the return that is recorded already changes nothing. -/
theorem withSeq_eq_self {s : State} {ret : Seq} (h : s.seq = ret) : { s with seq := ret } = s := by rw [← h]

/-! ### FLUSH -/

/-- 64 machine steps from the entry of a fold are FLUSH and the recorded return. -/
theorem run_fold (s : State) {ret : Seq} (hret : ret ≠ .idle) (hreset : NoReset s) :
    core.run 64 (s.enterFold ret) = .next { s.flush with seq := ret }.afterFold := by
  have hrun := run_rows 63 (s.enterFold ret) hret hreset rfl
  have hrows : (List.range' (s.enterFold ret).stepReg.toNat 64).map (fun i => scheduleRow (BitVec.ofNat 6 i))
      = scheduleRows := scheduleRows_eq_map.symm
  rw [hrows, State.enterFold_buf, State.enterFold_work] at hrun
  exact hrun.trans (congrArg (fun u : State => Host.Outcome.next u.afterFold) (foldEnd_eq_flush s ret))

/-- Settles O46: the rows from STEP = 0 are the whole schedule, and step 63 adds back, counts and returns. -/
theorem foldTakesSixtyFourSteps : Obligations.FoldTakesSixtyFourSteps := fun s _ hret hreset => run_fold s hret hreset

/-! ### WRITE -/

/-- Settles O47: WRITE of the 64th byte flushes the appended state, and so do the 64 steps from it; its response was absent
and its sequencer idle already. -/
theorem writeEqualsItsSteps : Obligations.WriteEqualsItsSteps := by
  intro s data hidle hp hc hrsp hreset
  have hcnt : s.cnt.toNat = 63 := by rw [hc]; rfl
  have happended : s.appended data = { s with buf := bufWrite s.buf 63 data, cnt := 64 } := by
    rw [State.appended, hcnt, hc, ← hrsp]
    rfl
  have hreturn : { (s.appended data).flush with seq := .foldToIdle }.afterFold = (s.appended data).flush :=
    withSeq_eq_self (s := (s.appended data).flush) hidle
  have hwrite : exec (.write data) s = .next (s.appended data).flush := by
    rw [exec_write_eq_flushIfFull data hp hcnt.le, flushIfFull_appended_of_last data hcnt]
  have hrun := run_fold (s.appended data) (ret := .foldToIdle) (by simp) hreset
  rw [hreturn] at hrun
  rw [hwrite, ← happended]
  exact hrun.symm

/-! ### FINAL -/

/-- A run of at least one step that answers began with a step that did. -/
theorem step_of_run_succ {n : Nat} {s t : State} (h : core.run (n + 1) s = .next t) :
    ∃ u, step s = .next u ∧ core.run n u = .next t := by
  cases hs : core.step s with
  | next u => exact ⟨u, hs, (run_succ n s u hs).symm.trans h⟩
  | fault e =>
    rw [Host.Core.run.eq_2 core s n, hs] at h
    cases h
  | refused e =>
    rw [Host.Core.run.eq_2 core s n, hs] at h
    cases h

/-- Steps after steps. -/
theorem run_add (m n : Nat) : ∀ {s t : State}, core.run m s = .next t → core.run (m + n) s = core.run n t := by
  induction m with
  | zero =>
    intro s t h
    cases h
    rw [Nat.zero_add]
  | succ m ih =>
    intro s t h
    obtain ⟨u, hs, hu⟩ := step_of_run_succ h
    rw [Nat.add_right_comm, run_succ _ s u hs, ih hu]

/-- The last fold of FINAL, from the padded block on: its return to F_SER is the end of FINAL (R161). -/
theorem run_last_fold (s : State) (hidle : s.seq = .idle) (hreset : NoReset s) :
    core.run 64 (s.placeLen.enterFold .foldToSerialize) = .next s.finishFinal := by
  have hreturn : { s.placeLen.flush with seq := .foldToSerialize }.afterFold = s.finishFinal :=
    withSeq_eq_self (s := s.finishFinal) hidle
  have hrun := run_fold s.placeLen (ret := .foldToSerialize) (by simp) hreset
  rwa [hreturn] at hrun

/-- The two folds of FINAL: the first returns to the entry of the second (R157, R161). -/
theorem run_two_folds (s : State) (hreset : NoReset s) :
    core.run 128 (s.enterFold .foldToSecondBlock)
      = core.run 64 (s.flush.zeroHead.placeLen.enterFold .foldToSerialize) :=
  run_add 64 64 (run_fold s (by simp) hreset)

/-- Settles O48: PAD takes the two-block path exactly when FINAL takes 128 steps, and each path ends in the return of the
last fold. -/
theorem finalEqualsItsSteps : Obligations.FinalEqualsItsSteps := by
  intro s s1 hidle hp hc hrsp hreset hs1
  have hmarked : s1 = s.marked := by
    obtain ⟨-, rfl⟩ := storeAtCnt_next hs1
    rw [State.marked, ← hrsp]
    rfl
  have hcnt := marked_cnt_toNat hc
  rw [exec_final_eq_finishFinal hp hc, hmarked]
  by_cases h : s.cnt.toNat ≤ 55
  · have hpath : ¬ 56 < s.marked.cnt := by rw [BitVec.lt_def, hcnt]; exact Nat.not_lt.mpr (Nat.succ_le_succ h)
    rw [if_pos h, padZeros_one _ (by omega), State.finalToFold, if_neg hpath]
    exact (run_last_fold (s.marked.zeroFill 56) hidle hreset).symm
  · have hpath : 56 < s.marked.cnt := by rw [BitVec.lt_def, hcnt]; exact Nat.succ_lt_succ (Nat.not_le.mp h)
    rw [if_neg h, padZeros_two _ (by omega), State.finalToFold, if_pos hpath]
    exact ((run_two_folds (s.marked.zeroFill 64) hreset).trans
      (run_last_fold (s.marked.zeroFill 64).flush.zeroHead hidle hreset)).symm

end Sys2Proof.Machine
end
